-- ==== Sys2Proof/Word.lean ====
section
/-! DEFINITION. The word types of the SFR block and the form in which a memory space is held. -/

namespace Sys2Proof

/-- One byte of IN or OUT, and one lane of a packed pixel (20_memory.md R60, 40_pixel_arithmetic.md R120). -/
abbrev Byte := BitVec 8

/-- A packed pixel: red 31:24, green 23:16, blue 15:8, alpha 7:0 (00_scope.md R8). -/
abbrev Pixel := BitVec 32

/-- A palette entry: red 23:16, green 15:8, blue 7:0 (10_state.md R37, 30_encoding.md R104). -/
abbrev PalEntry := BitVec 24

/-- The contents of a space whose unit is `w` bits wide: the locations that hold a value, at strictly
rising addresses. A location that is not listed holds no value (20_memory.md R79). -/
abbrev Cells (w : Nat) := List (Nat × BitVec w)

/-- The four address spaces that are memory (20_memory.md R60; REG is the fifth). -/
inductive Space where
  | input | fb | pal | out
  deriving DecidableEq, Repr

end Sys2Proof
end

