-- ==== Sys2Proof/Config.lean ====
section
/-! DEFINITION. What an implementation fixes (00_scope.md R6), and the free values: what the spec leaves
unspecified and the machine goes on from. -/

namespace Sys2Proof

/-- One pass of the interlace scheme: first column, first row, column stride, row stride (43_interlace_sequencer.md R201). -/
structure Geometry where
  x0 : Nat
  y0 : Nat
  sx : Nat
  sy : Nat
  deriving DecidableEq, Repr

/-- `PASS_TABLE`: exactly seven passes (00_scope.md R6, 43_interlace_sequencer.md R201, R210). -/
structure PassTable where
  p1 : Geometry
  p2 : Geometry
  p3 : Geometry
  p4 : Geometry
  p5 : Geometry
  p6 : Geometry
  p7 : Geometry
  deriving DecidableEq, Repr

/-- `WIDEN` as plain data: the lane value of each 1-, 2- and 4-bit sample, listed from sample 0 up.
A sample past the end of its list is zero-extended, so empty lists are the default of
41_bit_depth_unpacker.md R143. Depth 8 has no list: `WIDEN(8, s) = s` is fixed. -/
structure WidenTable where
  d1 : List Byte
  d2 : List Byte
  d4 : List Byte
  deriving DecidableEq, Repr

/-- The parameters of 00_scope.md R6. A capacity `none` is "unbounded". -/
structure Params where
  fbCapacity : Option Nat
  inCapacity : Option Nat
  outCapacity : Option Nat
  passTable : PassTable
  widen : WidenTable
  palEntries : Nat
  deriving DecidableEq, Repr

/-- FREE VALUE (log 7). Register or latch number `slot` at the `n`-th draw, where the spec says its value
is unspecified (93_implementation_defined.md U3). It has no body: nothing can be proved of its value. -/
opaque Config.freeReg (n slot : Nat) : BitVec 32

/-- FREE VALUE (log 9). The pixel that `FB[a]` holds after the `n`-th draw, where a fault left FB
unspecified (93_implementation_defined.md U1, 60_exceptions.md R253). -/
opaque Config.freePixel (n a : Nat) : Pixel

/-- FREE VALUE (log 9). The byte that `OUT[a]` holds after the `n`-th draw, where a fault left OUT
unspecified (93_implementation_defined.md U1, 60_exceptions.md R253). -/
opaque Config.freeByte (n a : Nat) : Byte

end Sys2Proof
end

