-- ==== Sys2Proof/Machine/Defaults.lean ====
section
/-! DEFINITION. The default values of the parameters (00_scope.md R6). -/

namespace Sys2Proof.Machine

/-- The default pass table of 43_interlace_sequencer.md R201. PRESUMED (log 12): the spec takes these numbers
from general knowledge (93_implementation_defined.md G1). -/
def defaultPassTable : PassTable where
  p1 := ⟨0, 0, 8, 8⟩
  p2 := ⟨4, 0, 8, 8⟩
  p3 := ⟨0, 4, 4, 8⟩
  p4 := ⟨2, 0, 4, 4⟩
  p5 := ⟨0, 2, 2, 4⟩
  p6 := ⟨1, 0, 2, 2⟩
  p7 := ⟨0, 1, 1, 2⟩

/-- The default `WIDEN`: zero-extension at every depth (41_bit_depth_unpacker.md R143). -/
def defaultWiden : WidenTable := ⟨[], [], []⟩

/-- Every parameter at its default (00_scope.md R6): unbounded memories, 256 palette entries. -/
def defaultParams : Params where
  fbCapacity := none
  inCapacity := none
  outCapacity := none
  passTable := defaultPassTable
  widen := defaultWiden
  palEntries := 256

end Sys2Proof.Machine
end

