-- ==== Sys2Proof/Syntax.lean ====
section
/-! DEFINITION. The instructions: one constructor per row of spec/opcode_table.json. -/

namespace Sys2Proof

/-- Every row of the opcode table. A scanline record has no operand of its own beside its filter type: its
row is the memory operand at `CUR + 1` (30_encoding.md R90, R93), read by the meaning. -/
inductive Instr where
  /-- F.NONE (42_scanline_reconstructor.md R164). -/
  | fNone
  /-- F.SUB (42_scanline_reconstructor.md R165). -/
  | fSub
  /-- F.UP (42_scanline_reconstructor.md R166). -/
  | fUp
  /-- F.AVG (42_scanline_reconstructor.md R167). -/
  | fAvg
  /-- F.PAETH (42_scanline_reconstructor.md R168). -/
  | fPaeth
  /-- C.DECODE (44_commands.md R222 to R224). -/
  | cDecode
  /-- C.ENCSUB (44_commands.md R226). -/
  | cEncsub
  /-- C.CLEAR (44_commands.md R225). -/
  | cClear
  /-- P.ADD(p, q) (40_pixel_arithmetic.md R121). -/
  | pAdd (p q : Pixel)
  /-- P.SUB(p, q) (40_pixel_arithmetic.md R122). -/
  | pSub (p q : Pixel)
  /-- P.AVG(p, q) (40_pixel_arithmetic.md R123). -/
  | pAvg (p q : Pixel)
  /-- P.PAETH(a, b, c): left, above, above-left (40_pixel_arithmetic.md R124). -/
  | pPaeth (a b c : Pixel)
  /-- U.EXTRACT(base, depth, i) (41_bit_depth_unpacker.md R140). -/
  | uExtract (base depth i : Nat)
  /-- U.COMPOSE(x) (41_bit_depth_unpacker.md R142). -/
  | uCompose (x : Nat)
  /-- U.PALETTE(x) (41_bit_depth_unpacker.md R144). -/
  | uPalette (x : Nat)
  /-- S.DIMS(k) (43_interlace_sequencer.md R202). -/
  | sDims (k : Nat)
  /-- S.XFORM(k, x, y) (43_interlace_sequencer.md R203). -/
  | sXform (k x y : Nat)
  deriving DecidableEq, Repr

/-- The `format` column of the opcode table. -/
inductive Format where
  | record | ctrl | pau | internal
  deriving DecidableEq, Repr

end Sys2Proof
end

