-- ==== Sys2Proof/Machine/State.lean ====
section
/-! DEFINITION. The state of the machine: everything 10_state.md R20 lists, the parameters of 00_scope.md R6,
and the model's own fields; the reasons a step can stop; the state after reset. -/

namespace Sys2Proof.Machine

/-- The values of `STATE` (10_state.md R24). -/
inductive RunState where
  | idle | run | done | fault
  deriving DecidableEq, Repr

/-- The five operand latches `x[V]`, `x[A]`, `x[B]`, `x[C]`, `x[R]` (10_state.md R21). -/
structure Latches where
  v : Pixel
  a : Pixel
  b : Pixel
  c : Pixel
  r : Pixel
  deriving DecidableEq, Repr

/-- A move of the host (70_reset_and_hazards.md R287, 20_memory.md R60). OUT is never written by the host, so there is
no move for it. -/
inductive HostOp where
  /-- Write `v` to register `n`; register 0 is `CTRL` (10_state.md R35). -/
  | writeReg (n v : Nat)
  /-- Read register `n`. -/
  | readReg (n : Nat)
  /-- Write a byte of IN. -/
  | writeIn (a : Nat) (v : Byte)
  /-- Write an entry of PAL. -/
  | writePal (a : Nat) (v : PalEntry)
  /-- Write a pixel of FB. -/
  | writeFb (a : Nat) (v : Pixel)
  /-- Read one unit of a space. -/
  | read (sp : Space) (a : Nat)
  deriving DecidableEq, Repr

/-- An entry of the event trace (10_state.md R39). -/
inductive Event where
  /-- `Warn(IDXFILT, PASS, PY, FT)` (60_exceptions.md R255). -/
  | warnIdxFilt (pass : BitVec 3) (py : BitVec 32) (ft : Byte)
  /-- `Fault(code, info, cur)` (60_exceptions.md R250). -/
  | fault (code : Byte) (info : BitVec 32) (cur : Nat)
  deriving DecidableEq, Repr

/-- Where a pure operation of a unit leaves its result (the model's own device, log 16). -/
inductive UnitResult where
  | nothing
  /-- Of P.ADD, P.SUB, P.AVG, P.PAETH. -/
  | pixel (p : Pixel)
  /-- Of U.EXTRACT. -/
  | sample (b : Byte)
  /-- Of S.XFORM. -/
  | point (px py : Nat)
  deriving DecidableEq, Repr

/-- Everything the machine holds. -/
structure State where
  /-- The parameters of 00_scope.md R6. Nothing writes them (log 11). -/
  params : Params
  /-- The operand latches (10_state.md R21). -/
  latches : Latches
  /-- `CUR`, the byte cursor into IN (10_state.md R22). -/
  cur : Nat
  /-- `PASS` (10_state.md R23). -/
  pass : BitVec 3
  /-- `PW` (10_state.md R23). -/
  pw : BitVec 32
  /-- `PH` (10_state.md R23). -/
  ph : BitVec 32
  /-- `PY` (10_state.md R23). -/
  py : BitVec 32
  /-- `PX` (10_state.md R23). -/
  px : BitVec 32
  /-- `FT` (10_state.md R23). -/
  ft : Byte
  /-- `STATE` (10_state.md R24). -/
  run : RunState
  /-- `ERR` (10_state.md R25). -/
  err : Byte
  /-- `ERR_INFO` (10_state.md R25). -/
  errInfo : BitVec 32
  /-- `ERR_CUR` (10_state.md R25). -/
  errCur : Nat
  /-- `WARN` (10_state.md R26). -/
  warn : Byte
  /-- `W` (10_state.md R27). -/
  width : BitVec 32
  /-- `H` (10_state.md R27). -/
  height : BitVec 32
  /-- `DEPTH` (10_state.md R28). -/
  depth : Byte
  /-- `CTYPE` (10_state.md R29). -/
  ctype : Byte
  /-- `ILACE` (10_state.md R30). -/
  ilace : Byte
  /-- `PAL_LEN` (10_state.md R31). -/
  palLen : BitVec 9
  /-- `IN_LEN` (10_state.md R32). -/
  inLen : Nat
  /-- `OUT_LEN` (10_state.md R33). -/
  outLen : Nat
  /-- The palette store PAL (10_state.md R37, 20_memory.md R63). -/
  pal : Cells 24
  /-- The input space IN (20_memory.md R61). -/
  input : Cells 8
  /-- The frame buffer FB (20_memory.md R62). -/
  fb : Cells 32
  /-- The output space OUT (20_memory.md R64). -/
  out : Cells 8
  /-- The model's own: the event trace of 10_state.md R39 (log 20). -/
  trace : List Event
  /-- The model's own: the result of the last pure unit operation (log 16). -/
  result : UnitResult
  /-- The model's own: the host's moves still to come, the next one first (log 3). -/
  host : List HostOp
  /-- The model's own: the word the host's last read returned (log 4). -/
  hostData : Nat
  /-- The model's own: in how many steps the reset input is asserted (log 5). -/
  resetIn : Option Nat
  /-- The model's own: how many free values have been drawn (log 7). -/
  seed : Nat
  deriving DecidableEq, Repr

/-- Why the machine stops without a next state. -/
inductive Fault where
  /-- A read of a location that holds no value (20_memory.md R79, 93_implementation_defined.md U2, treatment "stuck").
  Raised by U.EXTRACT, U.COMPOSE, U.PALETTE, the record step, C.ENCSUB and a host read. Safe. -/
  | noValue (sp : Space) (a : Nat)
  /-- A store past FB_CAPACITY. Raised by the pixel store, and only under a pass table that fails
  43_interlace_sequencer.md R210 (20_memory.md R73; log 19). Safe. -/
  | outsideSpace (sp : Space) (a : Nat)
  deriving DecidableEq, Repr

/-- Why the machine has no move (00_scope.md R10). -/
inductive Refusal where
  /-- An instruction without a meaning, raised by exec's refused arms only. Safe. -/
  | notModelled (mnemonic : String)
  /-- A reserved `CTRL` code, raised by the host port (93_implementation_defined.md U6). Safe. -/
  | reservedCommand (cmd : Byte)
  /-- C.DECODE or C.ENCSUB while STATE is not IDLE, raised by those two (93_implementation_defined.md U9, 44_commands.md R221).
  Safe. -/
  | commandNotIdle
  /-- C.CLEAR while STATE is RUN, raised by it: the host has no move (44_commands.md R221, 93_implementation_defined.md U8).
  Safe. -/
  | hostMoveInRun
  /-- A host write other than to `CTRL` while STATE is DONE or FAULT, raised by the host port
  (93_implementation_defined.md U8). Safe. -/
  | writeNotIdle
  /-- A host write of PAL_LEN above PAL_ENTRIES or above 256, raised by the host port (93_implementation_defined.md U7). Safe. -/
  | palLenTooLarge (v : Nat)
  /-- A host write of IN_LEN above IN_CAPACITY, raised by the host port (93_implementation_defined.md U7). Safe. -/
  | inLenTooLarge (v : Nat)
  /-- A host access outside a space, raised by the host port (93_implementation_defined.md U7, S1). Safe. -/
  | hostOutsideSpace (sp : Space) (a : Nat)
  /-- A scanline record outside the preconditions of 42_scanline_reconstructor.md R160, raised by the record step (log 18).
  Safe. -/
  | recordPreconditions
  /-- A depth U.EXTRACT is not defined for (41_bit_depth_unpacker.md R140), raised by U.EXTRACT, U.COMPOSE and U.PALETTE
  (log 17). Safe. -/
  | undefinedDepth (depth : Nat)
  /-- A CTYPE that 41_bit_depth_unpacker.md R142 gives no case for, raised by U.COMPOSE (log 17). Safe. -/
  | noComposition (ctype : Byte)
  /-- A pass number above 7 (43_interlace_sequencer.md R202, R203), raised by S.DIMS and S.XFORM (log 17). Safe. -/
  | undefinedPass (k : Nat)
  deriving DecidableEq, Repr

/-- The machine right after reset (10_state.md R38, 70_reset_and_hazards.md R280). The position registers and latches, which
the spec leaves unspecified, hold 0 (log 6); the parameters have their defaults (00_scope.md R6). -/
def State.reset : State where
  params := defaultParams
  latches := ⟨0, 0, 0, 0, 0⟩
  cur := 0
  pass := 0
  pw := 0
  ph := 0
  py := 0
  px := 0
  ft := 0
  run := .idle
  err := 0
  errInfo := 0
  errCur := 0
  warn := 0
  width := 0
  height := 0
  depth := 0
  ctype := 0
  ilace := 0
  palLen := 0
  inLen := 0
  outLen := 0
  pal := []
  input := []
  fb := []
  out := []
  trace := []
  result := .nothing
  host := []
  hostData := 0
  resetIn := none
  seed := 0

end Sys2Proof.Machine
end

