-- ==== Sys2Proof/Machine/Flags.lean ====
section
/-! DEFINITION. The flags: the three of CTYPE (30_encoding.md R97), the one of WARN (10_state.md R26), and which configuration
values are legal (10_state.md R28 to R30). No arithmetic operation writes a flag (40_pixel_arithmetic.md R128). -/

namespace Sys2Proof.Machine

/-- `CTYPE.INDEXED`, bit 0 (10_state.md R29). -/
def ctIndexed (ctype : Byte) : Bool := ctype.getLsbD 0

/-- `CTYPE.COLOR`, bit 1 (10_state.md R29). -/
def ctColor (ctype : Byte) : Bool := ctype.getLsbD 1

/-- `CTYPE.ALPHA`, bit 2 (10_state.md R29). -/
def ctAlpha (ctype : Byte) : Bool := ctype.getLsbD 2

/-- DEPTH in {1, 2, 4, 8} (30_encoding.md R96). -/
def legalDepth (depth : Byte) : Bool := depth == 1 || depth == 2 || depth == 4 || depth == 8

/-- CTYPE in {0, 2, 3, 4, 6} (30_encoding.md R97). -/
def legalCtype (ctype : Byte) : Bool :=
  ctype == 0 || ctype == 2 || ctype == 3 || ctype == 4 || ctype == 6

/-- ILACE in {0, 1} (30_encoding.md R99). -/
def legalIlace (ilace : Byte) : Bool := ilace == 0 || ilace == 1

/-- Bit 0 of WARN, IDXFILT (10_state.md R26). -/
def warnIdxFiltBit : Byte := 0x01

/-- `warn IDXFILT(FT)` (60_exceptions.md R255, R256): the sticky bit, an entry of the trace, nothing else. -/
def warnIdxFilt (s : State) : State :=
  { s with warn := s.warn ||| warnIdxFiltBit, trace := s.trace ++ [.warnIdxFilt s.pass s.py s.ft] }

end Sys2Proof.Machine
end

