-- ==== Sys2Proof/Machine/Memory.lean ====
section
/-! DEFINITION. `MemRead` and `MemWrite` on one space (00_scope.md R9, 20_memory.md R70, R71), and the two whole-range
operations: the writes from address 0 upward of a command, and what a fault leaves unspecified. -/

namespace Sys2Proof.Machine

/-- The unit at address `a`, or none where the location holds no value (20_memory.md R79). -/
def memRead {w : Nat} : Cells w → Nat → Option (BitVec w)
  | [], _ => none
  | (b, v) :: m, a => if a = b then some v else memRead m a

/-- Write one unit; every other address is left alone (20_memory.md R71). -/
def memWrite {w : Nat} (a : Nat) (v : BitVec w) : Cells w → Cells w
  | [] => [(a, v)]
  | (b, u) :: m =>
    if a < b then (a, v) :: (b, u) :: m
    else if a = b then (a, v) :: m
    else (b, u) :: memWrite a v m

/-- The canonical form: addresses strictly rising. -/
def memWf {w : Nat} : Cells w → Bool
  | [] => true
  | (a, _) :: m => m.all (fun c => a < c.1) && memWf m

/-- Units at consecutive addresses from `a` up. -/
def memNumber {w : Nat} (a : Nat) : List (BitVec w) → Cells w
  | [] => []
  | v :: vs => (a, v) :: memNumber (a + 1) vs

/-- Write `vs` at addresses 0, 1, ...; addresses at or above the length of `vs` are untouched. -/
def memStorePrefix {w : Nat} (vs : List (BitVec w)) (m : Cells w) : Cells w :=
  memNumber 0 vs ++ m.filter (fun c => vs.length ≤ c.1)

/-- Every location below `bound` that holds a value now holds `f` of its address; the others are untouched. -/
def memUnspecify {w : Nat} (bound : Nat) (f : Nat → BitVec w) (m : Cells w) : Cells w :=
  m.map (fun c => if c.1 < bound then (c.1, f c.1) else c)

/-- Every location that holds a value now holds `f` of its address. -/
def memUnspecifyAll {w : Nat} (f : Nat → BitVec w) (m : Cells w) : Cells w :=
  m.map (fun c => (c.1, f c.1))

/-- `n` units fit into a space of this capacity (00_scope.md R6: `none` is unbounded). -/
def fits (capacity : Option Nat) (n : Nat) : Bool :=
  match capacity with
  | none => true
  | some c => n ≤ c

end Sys2Proof.Machine
end

