-- ==== Sys2Proof/Machine/Operands.lean ====
section
/-! DEFINITION. The operand forms: the lanes of a packed pixel, the samples of a row, the pixels of a pass. -/

namespace Sys2Proof.Machine

/-- Lane `l`: 0 red 31:24, 1 green 23:16, 2 blue 15:8, 3 alpha 7:0 (00_scope.md R8). -/
def lane (p : Pixel) (l : Nat) : Byte := p.extractLsb' (8 * (3 - l)) 8

/-- `pack(r, g, b, a) = (r, g, b, a)`, red most significant (00_scope.md R8). -/
def pack (r g b a : Byte) : Pixel := r ++ g ++ b ++ a

/-- The bytes of a pixel in a little-endian dump of FB (20_memory.md R68): alpha, blue, green, red. -/
def dumpBytes (p : Pixel) : List Byte := [lane p 3, lane p 2, lane p 1, lane p 0]

/-- The bytes of a pixel in stream order (20_memory.md R66, 30_encoding.md R107): red, green, blue, alpha. -/
def streamBytes (p : Pixel) : List Byte := [lane p 0, lane p 1, lane p 2, lane p 3]

/-- `ceil_div(a, b)` (00_scope.md R9). -/
def ceilDiv (a b : Nat) : Nat := (a + b - 1) / b

/-- Samples per pixel (30_encoding.md R98). -/
def samplesPerPixel (ctype : Byte) : Nat :=
  if ctIndexed ctype then 1 else (if ctColor ctype then 3 else 1) + (if ctAlpha ctype then 1 else 0)

/-- `ROWBYTES` of a row of `pw` pixels (30_encoding.md R91). -/
def rowBytesOf (pw : Nat) (ctype depth : Byte) : Nat :=
  ceilDiv (pw * samplesPerPixel ctype * depth.toNat) 8

/-- `ROWBYTES` of the current record (30_encoding.md R91). -/
def rowBytes (s : State) : Nat := rowBytesOf s.pw.toNat s.ctype s.depth

/-- `SPB`, samples per byte (30_encoding.md R93, R96). -/
def samplesPerByte (depth : Nat) : Nat := 8 / depth

/-- How far sample `i` stands above bit 0 of its byte (41_bit_depth_unpacker.md R140). -/
def sampleShift (depth i : Nat) : Nat := (samplesPerByte depth - 1 - i % samplesPerByte depth) * depth

/-- Sample `i` of the byte that holds it: shift, then mask (41_bit_depth_unpacker.md R140). -/
def sampleOfByte (byte : Byte) (depth i : Nat) : Byte :=
  BitVec.ofNat 8 ((byte.toNat >>> sampleShift depth i) &&& ((1 <<< depth) - 1))

/-- The IN address of the byte that holds sample `i` (41_bit_depth_unpacker.md R140). -/
def sampleAddr (base depth i : Nat) : Nat := base + i / samplesPerByte depth

/-- `WIDEN(depth, s)` (41_bit_depth_unpacker.md R143): the supplied table, else zero-extension; at depth 8 the sample
itself. -/
def widenSample (t : WidenTable) (depth : Nat) (s : Byte) : Byte :=
  match depth with
  | 1 => t.d1.getD s.toNat s
  | 2 => t.d2.getD s.toNat s
  | 4 => t.d4.getD s.toNat s
  | _ => s

/-- The geometry of pass `k`: the identity for the single pass 0, else row `k` of the pass table
(43_interlace_sequencer.md R200, R201). -/
def geometryOf (t : PassTable) (k : Nat) : Geometry :=
  match k with
  | 1 => t.p1
  | 2 => t.p2
  | 3 => t.p3
  | 4 => t.p4
  | 5 => t.p5
  | 6 => t.p6
  | 7 => t.p7
  | _ => ⟨0, 0, 1, 1⟩

/-- One axis of `S.DIMS`: how many pixels of an axis of length `n` a pass of offset `o` and stride `d` has
(43_interlace_sequencer.md R202). -/
def axisCount (n o d : Nat) : Nat := if o < n then ceilDiv (n - o) d else 0

/-- `PW` of pass `k` (43_interlace_sequencer.md R202). -/
def passWidth (t : PassTable) (k w : Nat) : Nat := axisCount w (geometryOf t k).x0 (geometryOf t k).sx

/-- `PH` of pass `k` (43_interlace_sequencer.md R202). -/
def passHeight (t : PassTable) (k h : Nat) : Nat := axisCount h (geometryOf t k).y0 (geometryOf t k).sy

/-- `S.XFORM(k, x, y)` (43_interlace_sequencer.md R203). -/
def xform (t : PassTable) (k x y : Nat) : Nat × Nat :=
  ((geometryOf t k).x0 + x * (geometryOf t k).sx, (geometryOf t k).y0 + y * (geometryOf t k).sy)

/-- `lin_k(x, y)`, the FB address of a pass-local pixel of an image `w` wide (43_interlace_sequencer.md R204). -/
def linAddr (t : PassTable) (w k x y : Nat) : Nat := (xform t k x y).2 * w + (xform t k x y).1

/-- `lin_k(x, y)` under the current pass (42_scanline_reconstructor.md R162). -/
def lin (s : State) (x y : Nat) : Nat := linAddr s.params.passTable s.width.toNat s.pass.toNat x y

/-- How many entries PAL has: `PAL_ENTRIES`, and never more than the 256 that PAL_LEN, the addresses of PAL and an 8-bit index
reach (10_state.md R31, R37, 20_memory.md R60, 93_implementation_defined.md U7; log 11). -/
def palSize (p : Params) : Nat := min p.palEntries 256

/-- `W * H`, exact (00_scope.md R6). -/
def area (s : State) : Nat := s.width.toNat * s.height.toNat

end Sys2Proof.Machine
end

