-- ==== Sys2Proof/Machine/Ops.lean ====
section
/-! DEFINITION. The named operations over memory and registers that the meanings share: typed reads and the FB store,
free values, taking a fault and the only exit from one, the register file, reset. -/

namespace Sys2Proof.Machine

/-- Read one byte of IN (20_memory.md R70); a location that holds no value is stuck (93_implementation_defined.md U2). -/
def readIn (s : State) (a : Nat) : Except Fault Byte :=
  match memRead s.input a with
  | some b => .ok b
  | none => .error (.noValue .input a)

/-- Read one pixel of FB (20_memory.md R70). -/
def readFb (s : State) (a : Nat) : Except Fault Pixel :=
  match memRead s.fb a with
  | some p => .ok p
  | none => .error (.noValue .fb a)

/-- Read one entry of PAL (20_memory.md R63). -/
def readPal (s : State) (a : Nat) : Except Fault PalEntry :=
  match memRead s.pal a with
  | some e => .ok e
  | none => .error (.noValue .pal a)

/-- Store one pixel of FB (42_scanline_reconstructor.md R163). FB has no addresses at or above FB_CAPACITY; under a pass
table that meets R210 the block forms none (20_memory.md R73; log 19). -/
def storeFb (s : State) (a : Nat) (p : Pixel) : Except Fault State :=
  if fits s.params.fbCapacity (a + 1) then .ok { s with fb := memWrite a p s.fb }
  else .error (.outsideSpace .fb a)

/-- The latches hold unspecified values outside a pixel step (10_state.md R21; log 7, log 22). -/
def freeLatches (s : State) : State :=
  { s with
    latches := ⟨Config.freeReg s.seed 0, Config.freeReg s.seed 1, Config.freeReg s.seed 2, Config.freeReg s.seed 3,
      Config.freeReg s.seed 4⟩
    seed := s.seed + 1 }

/-- `FT` holds an unspecified value until the byte of a record is read (10_state.md R23; log 7, log 21). -/
def freeFilterType (s : State) : State :=
  { s with ft := (Config.freeReg s.seed 10).setWidth 8, seed := s.seed + 1 }

/-- `PW`, `PH` and `FT` hold unspecified values at a start-check fault (60_exceptions.md R250; log 7, log 21). -/
def freeDims (s : State) : State :=
  { s with
    pw := Config.freeReg s.seed 6
    ph := Config.freeReg s.seed 7
    ft := (Config.freeReg s.seed 10).setWidth 8
    seed := s.seed + 1 }

/-- All six position registers hold unspecified values after DONE, C.CLEAR and reset (10_state.md R23, R38,
44_commands.md R225; log 7). -/
def freePosition (s : State) : State :=
  { s with
    pass := (Config.freeReg s.seed 5).setWidth 3
    pw := Config.freeReg s.seed 6
    ph := Config.freeReg s.seed 7
    py := Config.freeReg s.seed 8
    px := Config.freeReg s.seed 9
    ft := (Config.freeReg s.seed 10).setWidth 8
    seed := s.seed + 1 }

/-- The faults (60_exceptions.md R240). -/
inductive Exc where
  | zeroArea | depth | ctype | ilace | capacity | selfcheck | trunc | filter | palidx
  deriving DecidableEq, Repr

/-- The value of `ERR` for a fault (60_exceptions.md R240). -/
def excCode : Exc → Byte
  | .zeroArea => 1
  | .depth => 2
  | .ctype => 3
  | .ilace => 4
  | .capacity => 5
  | .selfcheck => 6
  | .trunc => 7
  | .filter => 8
  | .palidx => 9

/-- The command a fault ends: it decides which space the fault leaves unspecified (60_exceptions.md R253). -/
inductive Running where
  | decode | encode
  deriving DecidableEq, Repr

/-- What a fault leaves unspecified (60_exceptions.md R253): `FB[0 .. W*H-1]` after C.DECODE, OUT after C.ENCSUB. FB at
or above `W*H` keeps its values, and a location that holds no value still holds none (log 9). -/
def spoil (c : Running) (s : State) : State :=
  match c with
  | .decode => { s with fb := memUnspecify (area s) (Config.freePixel s.seed) s.fb, seed := s.seed + 1 }
  | .encode => { s with out := memUnspecifyAll (Config.freeByte s.seed) s.out, seed := s.seed + 1 }

/-- Fault entry, `raise E(info)` (60_exceptions.md R250): the fault record, STATE, nothing else of the registers. The
latches are outside a pixel step from here on (log 22). -/
def takeFault (c : Running) (e : Exc) (info : BitVec 32) (s : State) : State :=
  spoil c (freeLatches
    { s with
      err := excCode e
      errInfo := info
      errCur := s.cur
      run := .fault
      trace := s.trace ++ [.fault (excCode e) info s.cur] })

/-- The only exit from FAULT and DONE (60_exceptions.md R254): what C.CLEAR does (44_commands.md R225). PAL and IN hold no
value afterwards (70_reset_and_hazards.md R280; log 10); FB and OUT are unchanged. -/
def clearCall (s : State) : State :=
  freeLatches (freePosition
    { s with
      run := .idle
      err := 0
      errInfo := 0
      errCur := 0
      warn := 0
      width := 0
      height := 0
      depth := 0
      ctype := 0
      ilace := 0
      palLen := 0
      inLen := 0
      cur := 0
      outLen := 0
      pal := []
      input := [] })

/-- The reset event (70_reset_and_hazards.md R280): the state of 10_state.md R38, position registers and latches
unspecified. The parameters are the hardware's; the trace, the host and the counter of free values are outside it. -/
def applyReset (s : State) : State :=
  freeLatches (freePosition
    { State.reset with
      params := s.params
      trace := s.trace
      host := s.host
      hostData := s.hostData
      resetIn := none
      seed := s.seed })

/-- `STATE` as the number the host reads (10_state.md R24). -/
def runCode : RunState → Nat
  | .idle => 0
  | .run => 1
  | .done => 2
  | .fault => 3

/-- A host read of register `n` (10_state.md R35): `CTRL` reads 0 (R34), and so does a number above 20. -/
def readReg (s : State) (n : Nat) : Nat :=
  match n with
  | 1 => runCode s.run
  | 2 => s.err.toNat
  | 3 => s.errInfo.toNat
  | 4 => s.errCur
  | 5 => s.warn.toNat
  | 6 => s.width.toNat
  | 7 => s.height.toNat
  | 8 => s.depth.toNat
  | 9 => s.ctype.toNat
  | 10 => s.ilace.toNat
  | 11 => s.palLen.toNat
  | 12 => s.inLen
  | 13 => s.cur
  | 14 => s.outLen
  | 15 => s.pass.toNat
  | 16 => s.pw.toNat
  | 17 => s.ph.toNat
  | 18 => s.py.toNat
  | 19 => s.px.toNat
  | 20 => s.ft.toNat
  | _ => 0

/-- A host write of register `n` (not `CTRL`) in IDLE (10_state.md R35): the low bits of the register's width are kept; a
read-only register or a number above 20 is not affected; PAL_LEN and IN_LEN above their limits are refused (R31, R32,
93_implementation_defined.md U7). -/
def writeReg (n v : Nat) (s : State) : Except Refusal State :=
  match n with
  | 6 => .ok { s with width := BitVec.ofNat 32 v }
  | 7 => .ok { s with height := BitVec.ofNat 32 v }
  | 8 => .ok { s with depth := BitVec.ofNat 8 v }
  | 9 => .ok { s with ctype := BitVec.ofNat 8 v }
  | 10 => .ok { s with ilace := BitVec.ofNat 8 v }
  | 11 => if v ≤ palSize s.params then .ok { s with palLen := BitVec.ofNat 9 v } else .error (.palLenTooLarge v)
  | 12 => if fits s.params.inCapacity v then .ok { s with inLen := v } else .error (.inLenTooLarge v)
  | _ => .ok s

/-- How far a command or a part of one has got. -/
inductive Flow where
  /-- It goes on. -/
  | go (s : State)
  /-- A fault has ended the command (60_exceptions.md R250). -/
  | ended (s : State)
  /-- A read that has no meaning. -/
  | stuck (f : Fault)
  deriving DecidableEq, Repr

/-- Do `k` next, unless the command has ended. -/
def flowThen (r : Flow) (k : State → Flow) : Flow :=
  match r with
  | .go s => k s
  | .ended s => .ended s
  | .stuck f => .stuck f

end Sys2Proof.Machine
end

