-- ==== Sys2Proof/Machine/Pau.lean ====
section
/-! DEFINITION. The pixel arithmetic unit (40_pixel_arithmetic.md): one function on single bytes for each operation, applied
to the four lanes separately (R120), and the meanings of P.ADD, P.SUB, P.AVG, P.PAETH. -/

namespace Sys2Proof.Machine

/-- One lane of P.ADD: the exact sum modulo 256 (40_pixel_arithmetic.md R121). -/
def addLane (x y : Byte) : Byte := BitVec.ofNat 8 (x.toNat + y.toNat)

/-- One lane of P.SUB: the exact difference modulo 256 (40_pixel_arithmetic.md R122). -/
def subLane (x y : Byte) : Byte := BitVec.ofInt 8 ((x.toNat : Int) - (y.toNat : Int))

/-- One lane of P.AVG: the 9-bit sum, shifted right by one (40_pixel_arithmetic.md R123). -/
def avgLane (x y : Byte) : Byte := BitVec.ofNat 8 ((x.toNat + y.toNat) >>> 1)

/-- One lane of P.PAETH: distances as mathematical integers, ties to `a`, then `b` (40_pixel_arithmetic.md R124). -/
def paethLane (a b c : Byte) : Byte :=
  let p : Int := (a.toNat : Int) + (b.toNat : Int) - (c.toNat : Int)
  let pa := (p - (a.toNat : Int)).natAbs
  let pb := (p - (b.toNat : Int)).natAbs
  let pc := (p - (c.toNat : Int)).natAbs
  if pa ≤ pb ∧ pa ≤ pc then a else if pb ≤ pc then b else c

/-- Apply a two-operand lane function to each lane (40_pixel_arithmetic.md R120). -/
def lanes2 (op : Byte → Byte → Byte) (p q : Pixel) : Pixel :=
  pack (op (lane p 0) (lane q 0)) (op (lane p 1) (lane q 1)) (op (lane p 2) (lane q 2)) (op (lane p 3) (lane q 3))

/-- Apply a three-operand lane function to each lane (40_pixel_arithmetic.md R120). -/
def lanes3 (op : Byte → Byte → Byte → Byte) (a b c : Pixel) : Pixel :=
  pack (op (lane a 0) (lane b 0) (lane c 0)) (op (lane a 1) (lane b 1) (lane c 1))
    (op (lane a 2) (lane b 2) (lane c 2)) (op (lane a 3) (lane b 3) (lane c 3))

/-- P.ADD (40_pixel_arithmetic.md R121). -/
def pauAdd (p q : Pixel) : Pixel := lanes2 addLane p q

/-- P.SUB (40_pixel_arithmetic.md R122). -/
def pauSub (p q : Pixel) : Pixel := lanes2 subLane p q

/-- P.AVG (40_pixel_arithmetic.md R123). -/
def pauAvg (p q : Pixel) : Pixel := lanes2 avgLane p q

/-- P.PAETH (40_pixel_arithmetic.md R124). -/
def pauPaeth (a b c : Pixel) : Pixel := lanes3 paethLane a b c

/-- Leave the result of a pure operation on the result port; nothing else is written (40_pixel_arithmetic.md R128, log 16). -/
def deliver (r : UnitResult) (s : State) : Host.Outcome State Fault Refusal := .next { s with result := r }

/-- P.ADD (40_pixel_arithmetic.md R121). -/
def execPAdd (p q : Pixel) (s : State) : Host.Outcome State Fault Refusal := deliver (.pixel (pauAdd p q)) s

/-- P.SUB (40_pixel_arithmetic.md R122). -/
def execPSub (p q : Pixel) (s : State) : Host.Outcome State Fault Refusal := deliver (.pixel (pauSub p q)) s

/-- P.AVG (40_pixel_arithmetic.md R123). -/
def execPAvg (p q : Pixel) (s : State) : Host.Outcome State Fault Refusal := deliver (.pixel (pauAvg p q)) s

/-- P.PAETH (40_pixel_arithmetic.md R124). -/
def execPPaeth (a b c : Pixel) (s : State) : Host.Outcome State Fault Refusal := deliver (.pixel (pauPaeth a b c)) s

end Sys2Proof.Machine
end

