-- ==== Sys2Proof/WellFormed.lean ====
section
/-! DEFINITION. Which instructions are well formed: the operands lie in the domain their rule gives them. -/

namespace Sys2Proof

/-- The four depths U.EXTRACT is defined for (41_bit_depth_unpacker.md R140). -/
abbrev depthOperandOk (depth : Nat) : Bool := depth == 1 || depth == 2 || depth == 4 || depth == 8

/-- A pass number: 0 for the single pass, 1 to 7 otherwise (43_interlace_sequencer.md R202). -/
abbrev passOperandOk (k : Nat) : Bool := k ≤ 7

/-- A pass-local coordinate: `PX` and `PY` are 32-bit registers (10_state.md R23). -/
abbrev coordOperandOk (x : Nat) : Bool := x < 2 ^ 32

/-- The operands lie in the domain of the instruction's rule. Records, commands and PAU operations have no
reserved operand (40_pixel_arithmetic.md R128). -/
def Instr.wf : Instr → Bool
  | .fNone | .fSub | .fUp | .fAvg | .fPaeth => true
  | .cDecode | .cEncsub | .cClear => true
  | .pAdd _ _ | .pSub _ _ | .pAvg _ _ | .pPaeth _ _ _ => true
  | .uExtract _ depth _ => depthOperandOk depth
  | .uCompose x => coordOperandOk x
  | .uPalette x => coordOperandOk x
  | .sDims k => passOperandOk k
  | .sXform k x y => passOperandOk k && coordOperandOk x && coordOperandOk y

end Sys2Proof
end

