-- ==== Sys2Proof/Machine/Unpacker.lean ====
section
/-! DEFINITION. The bit-depth unpacker (41_bit_depth_unpacker.md): sample extraction, composition, palette lookup, and the
meanings of U.EXTRACT, U.COMPOSE, U.PALETTE. -/

namespace Sys2Proof.Machine

/-- Sample `i` of the samples packed from IN address `base` up (41_bit_depth_unpacker.md R140). -/
def extractSample (s : State) (base depth i : Nat) : Except Fault Byte :=
  (readIn s (sampleAddr base depth i)).map (fun byte => sampleOfByte byte depth i)

/-- Lane value of channel `c` of pass-local pixel `x` of the current record (41_bit_depth_unpacker.md R142). -/
def channelSample (s : State) (x c : Nat) : Except Fault Byte :=
  (extractSample s (s.cur + 1) s.depth.toNat (x * samplesPerPixel s.ctype + c)).map
    (widenSample s.params.widen s.depth.toNat)

/-- The alpha lane of the raw pixel word: channel `c`, or 0 where the colour type has no alpha (41_bit_depth_unpacker.md
R142). -/
def alphaSample (s : State) (x c : Nat) : Except Fault Byte :=
  if ctAlpha s.ctype then channelSample s x c else .ok 0

/-- The raw pixel word of pass-local pixel `x`, not INDEXED (41_bit_depth_unpacker.md R142): the samples in channel order
red, green, blue, alpha or grey, alpha; a grey sample fills three lanes. -/
def composePixel (s : State) (x : Nat) : Except Fault Pixel :=
  if ctColor s.ctype then do
    let r ← channelSample s x 0
    let g ← channelSample s x 1
    let b ← channelSample s x 2
    let a ← alphaSample s x 3
    .ok (pack r g b a)
  else do
    let g ← channelSample s x 0
    let a ← alphaSample s x 1
    .ok (pack g g g a)

/-- A palette entry as a pixel, alpha forced opaque (41_bit_depth_unpacker.md R144). -/
def palettePixel (e : PalEntry) : Pixel :=
  pack (e.extractLsb' 16 8) (e.extractLsb' 8 8) (e.extractLsb' 0 8) 0xFF

/-- Load `x[V]` (10_state.md R21). -/
def loadV (v : Pixel) (s : State) : State := { s with latches := { s.latches with v := v } }

/-- U.PALETTE (41_bit_depth_unpacker.md R144): the index of pass-local pixel `x`, `E_PALIDX` where the palette has no such
entry (60_exceptions.md R251: PX is the pixel's column), else its colour into `x[V]`. -/
def lookupPixel (s : State) (x : Nat) : Flow :=
  match extractSample s (s.cur + 1) s.depth.toNat x with
  | .error f => .stuck f
  | .ok i =>
    if s.palLen.toNat ≤ i.toNat then
      .ended (takeFault .decode .palidx (i.setWidth 32) { s with px := BitVec.ofNat 32 x })
    else
      match readPal s i.toNat with
      | .error f => .stuck f
      | .ok e => .go (loadV (palettePixel e) s)

/-- A flow as an outcome of the machine: a fault of the spec is a next state (00_scope.md R10). -/
def flowOutcome : Flow → Host.Outcome State Fault Refusal
  | .go s => .next s
  | .ended s => .next s
  | .stuck f => .fault f

/-- U.EXTRACT (41_bit_depth_unpacker.md R140); other depths are not defined (log 17). -/
def execUExtract (base depth i : Nat) (s : State) : Host.Outcome State Fault Refusal :=
  if depthOperandOk depth then
    match extractSample s base depth i with
    | .error f => .fault f
    | .ok b => deliver (.sample b) s
  else .refused (.undefinedDepth depth)

/-- U.COMPOSE (41_bit_depth_unpacker.md R142). DESIGN CHOICE (log 17; unsafe for a claim about such a case, none of
which a step reaches): it runs in any STATE, and at a column `x >= PW`, outside the rule's operand domain, it composes from the
bytes that the same formula reaches. -/
def execUCompose (x : Nat) (s : State) : Host.Outcome State Fault Refusal :=
  if ¬ depthOperandOk s.depth.toNat then .refused (.undefinedDepth s.depth.toNat)
  else if ctIndexed s.ctype || !legalCtype s.ctype then .refused (.noComposition s.ctype)
  else
    match composePixel s x with
    | .error f => .fault f
    | .ok v => .next (loadV v s)

/-- U.PALETTE (41_bit_depth_unpacker.md R144). DESIGN CHOICE (log 17; unsafe for a claim about such a case, none of
which a step reaches): it runs in any STATE, whatever CTYPE is, the rule being for INDEXED only, and at any column `x`. The
sequencer invokes it in an INDEXED record only, so a decode of another type
never reads PAL (60_exceptions.md R257). -/
def execUPalette (x : Nat) (s : State) : Host.Outcome State Fault Refusal :=
  if ¬ depthOperandOk s.depth.toNat then .refused (.undefinedDepth s.depth.toNat)
  else flowOutcome (lookupPixel s x)

end Sys2Proof.Machine
end

