-- ==== Sys2Proof/Machine/Interlace.lean ====
section
/-! DEFINITION. The interlace sequencer (43_interlace_sequencer.md): pass dimensions, the self-check, the loop over passes and
rows, and the meanings of S.DIMS and S.XFORM. -/

namespace Sys2Proof.Machine

/-- `S.DIMS(k)`: writes PW and PH (43_interlace_sequencer.md R202). -/
def setDims (k : Nat) (s : State) : State :=
  { s with
    pw := BitVec.ofNat 32 (passWidth s.params.passTable k s.width.toNat)
    ph := BitVec.ofNat 32 (passHeight s.params.passTable k s.height.toNat) }

/-- S.DIMS (43_interlace_sequencer.md R202). DESIGN CHOICE (log 17; unsafe for a claim about such a case, none of which a step
reaches): it runs in any STATE. -/
def execSDims (k : Nat) (s : State) : Host.Outcome State Fault Refusal :=
  if passOperandOk k then .next (setDims k s)
  else .refused (.undefinedPass k)

/-- S.XFORM (43_interlace_sequencer.md R203). DESIGN CHOICE (log 17; unsafe for a claim about such a case, none of
which a step reaches): it runs in any STATE, and outside the rule's operand domain, at `x >= PW`, `y >= PH` or an empty pass, it
gives what the same formula gives. -/
def execSXform (k x y : Nat) (s : State) : Host.Outcome State Fault Refusal :=
  if passOperandOk k then deliver (.point (xform s.params.passTable k x y).1 (xform s.params.passTable k x y).2) s
  else .refused (.undefinedPass k)

/-- The number of pixels of pass `k` of a `w` by `h` image (43_interlace_sequencer.md R206). -/
def passPixels (t : PassTable) (w h k : Nat) : Nat := passWidth t k w * passHeight t k h

/-- The sum the self-check compares with `W * H` (43_interlace_sequencer.md R206). -/
def selfCheckSum (t : PassTable) (w h : Nat) : Nat :=
  passPixels t w h 1 + passPixels t w h 2 + passPixels t w h 3 + passPixels t w h 4 + passPixels t w h 5
    + passPixels t w h 6 + passPixels t w h 7

/-- The passes of a decode in order (43_interlace_sequencer.md R207). -/
def allPasses (ilace : Byte) : List Nat := if ilace = 0 then [0] else [1, 2, 3, 4, 5, 6, 7]

/-- The passes that follow pass `k`; the single pass 0 has none (43_interlace_sequencer.md R207). -/
def passesAfter (ilace : Byte) (k : Nat) : List Nat := (allPasses ilace).filter (fun j => k < j)

/-- A command completes (44_commands.md R223, R226): STATE is DONE; position registers and latches are unspecified
(10_state.md R23). -/
def finish (s : State) : State := freeLatches (freePosition { s with run := .done })

/-- Enter the first non-empty pass of a list at its row 0, or complete the decode (43_interlace_sequencer.md R205, R207). -/
def enterPass (s : State) : List Nat → State
  | [] => finish s
  | k :: ks =>
    let t := setDims k { s with pass := BitVec.ofNat 3 k }
    if t.pw = 0 ∨ t.ph = 0 then enterPass t ks else { t with py := 0 }

/-- Where the sequencer goes after a record: the next row, the next non-empty pass, or completion
(43_interlace_sequencer.md R207). -/
def nextRecord (s : State) : State :=
  if s.py.toNat + 1 < s.ph.toNat then { s with py := s.py + 1 }
  else enterPass s (passesAfter s.ilace s.pass.toNat)

/-- Go on after a record unless a fault has ended the command (60_exceptions.md R250). -/
def afterRecord : Host.Outcome State Fault Refusal → Host.Outcome State Fault Refusal
  | .next s => .next (if s.run = .run then nextRecord s else s)
  | .fault f => .fault f
  | .refused r => .refused r

end Sys2Proof.Machine
end

