-- ==== Sys2Proof/Machine/Recon.lean ====
section
/-! DEFINITION. The scanline reconstructor (42_scanline_reconstructor.md): the record step, the two pixel steps, and the
meanings of the five filter types. -/

namespace Sys2Proof.Machine

/-- The five filter types (42_scanline_reconstructor.md R161). -/
inductive Filter where
  | none | sub | up | avg | paeth
  deriving DecidableEq, Repr

/-- The filter-type byte of a filter (30_encoding.md R92). -/
def filterCode : Filter → Byte
  | .none => 0
  | .sub => 1
  | .up => 2
  | .avg => 3
  | .paeth => 4

/-- The prediction a filter adds to the raw pixel word (42_scanline_reconstructor.md R161). -/
def predict : Filter → Latches → Pixel
  | .none, _ => 0
  | .sub, l => l.a
  | .up, l => l.b
  | .avg, l => pauAvg l.a l.b
  | .paeth, l => pauPaeth l.a l.b l.c

/-- The reconstructed pixel before the alpha rule (42_scanline_reconstructor.md R163 to R168). -/
def reconstruct (f : Filter) (l : Latches) : Pixel :=
  match f with
  | .none => l.v
  | f => pauAdd l.v (predict f l)

/-- The forced-opaque alpha rule (42_scanline_reconstructor.md R169). -/
def forceAlpha (ctype : Byte) (p : Pixel) : Pixel :=
  if ctAlpha ctype then p else (p &&& 0xFFFFFF00) ||| 0x000000FF

/-- One neighbour: the stored word, or 0 where it is missing (42_scanline_reconstructor.md R162). -/
def neighbour (s : State) (present : Bool) (x y : Nat) : Except Fault Pixel :=
  if present then readFb s (lin s x y) else .ok 0

/-- The pixel step's loads: `x[V]` by U.COMPOSE, then the pass-local neighbours left, above, above-left
(42_scanline_reconstructor.md R162, R163). -/
def loadLatches (s : State) (x y : Nat) : Except Fault Latches := do
  let v ← composePixel s x
  let a ← neighbour s (0 < x) (x - 1) y
  let b ← neighbour s (0 < y) x (y - 1)
  let c ← neighbour s (0 < x && 0 < y) (x - 1) (y - 1)
  .ok ⟨v, a, b, c, s.latches.r⟩

/-- Store `x[R]` at the current pixel (42_scanline_reconstructor.md R163, R170). -/
def storePixel (r : Pixel) (s : State) : Flow :=
  match storeFb { s with latches := { s.latches with r := r } } (lin s s.px.toNat s.py.toNat) r with
  | .error f => .stuck f
  | .ok t => .go t

/-- The pixel step of the non-indexed colour types (42_scanline_reconstructor.md R163). -/
def filteredPixel (f : Filter) (s : State) : Flow :=
  match loadLatches s s.px.toNat s.py.toNat with
  | .error e => .stuck e
  | .ok l => storePixel (forceAlpha s.ctype (reconstruct f l)) { s with latches := l }

/-- The indexed pixel step (42_scanline_reconstructor.md R170): the filter is never applied. -/
def indexedPixel (s : State) : Flow :=
  flowThen (lookupPixel s s.px.toNat) (fun t => storePixel t.latches.v t)

/-- One pixel step (42_scanline_reconstructor.md R160). -/
def pixelStep (f : Filter) (s : State) : Flow :=
  if ctIndexed s.ctype then indexedPixel s else filteredPixel f s

/-- The `n` pixel steps from column `x` on, left to right (42_scanline_reconstructor.md R160, R174). -/
def pixelLoop (f : Filter) : Nat → Nat → State → Flow
  | 0, _, s => .go s
  | n + 1, x, s => flowThen (pixelStep f { s with px := BitVec.ofNat 32 x }) (pixelLoop f n (x + 1))

/-- The preconditions the sequencer sets for a record step (42_scanline_reconstructor.md R160): the checked configuration is
legal, and PW, PH, PY describe a row. STATE is not among them (log 18). -/
def recordReady (s : State) : Bool :=
  legalDepth s.depth && legalCtype s.ctype && decide (1 ≤ s.pw.toNat) && decide (s.py.toNat < s.ph.toNat)

/-- The warning of a record (42_scanline_reconstructor.md R160, R171): a nonzero filter type on an INDEXED row. -/
def recordWarning (s : State) : State :=
  if ctIndexed s.ctype && s.ft != 0 then warnIdxFilt s else s

/-- End of a record: the cursor moves past it; the latches are outside a pixel step (10_state.md R22, R21). -/
def endRecord (rb : Nat) (s : State) : State := freeLatches { s with cur := s.cur + 1 + rb }

/-- What the pixel loop leaves, as the outcome of the record. -/
def recordOutcome (rb : Nat) : Flow → Host.Outcome State Fault Refusal
  | .go s => .next (endRecord rb s)
  | .ended s => .next s
  | .stuck f => .fault f

/-- The record step of filter `f` (42_scanline_reconstructor.md R160): PX and FT, the row check, the warning, the pixel
steps, the cursor. The two checks that come before the filter type is known are the fetch's. -/
def recordStep (f : Filter) (s : State) : Host.Outcome State Fault Refusal :=
  if recordReady s then
    let t := { s with px := 0, ft := filterCode f }
    if t.inLen < t.cur + 1 + rowBytes t then .next (takeFault .decode .trunc 0 t)
    else recordOutcome (rowBytes t) (pixelLoop f t.pw.toNat 0 (recordWarning t))
  else .refused .recordPreconditions

/-- F.NONE (42_scanline_reconstructor.md R164). -/
def execFNone (s : State) : Host.Outcome State Fault Refusal := recordStep .none s

/-- F.SUB (42_scanline_reconstructor.md R165). -/
def execFSub (s : State) : Host.Outcome State Fault Refusal := recordStep .sub s

/-- F.UP (42_scanline_reconstructor.md R166). -/
def execFUp (s : State) : Host.Outcome State Fault Refusal := recordStep .up s

/-- F.AVG (42_scanline_reconstructor.md R167). -/
def execFAvg (s : State) : Host.Outcome State Fault Refusal := recordStep .avg s

/-- F.PAETH (42_scanline_reconstructor.md R168). -/
def execFPaeth (s : State) : Host.Outcome State Fault Refusal := recordStep .paeth s

end Sys2Proof.Machine
end

