-- ==== Sys2Proof/Machine/Commands.lean ====
section
/-! DEFINITION. The commands (44_commands.md): the start checks and start of C.DECODE, the forward Sub filter C.ENCSUB, and
C.CLEAR. -/

namespace Sys2Proof.Machine

/-- The first start check of C.DECODE that fails, with its information word (44_commands.md R222, 60_exceptions.md R240,
R252). -/
def startCheck (s : State) : Option (Exc × BitVec 32) :=
  if s.width = 0 ∨ s.height = 0 then some (.zeroArea, 0)
  else if ¬ legalDepth s.depth then some (.depth, s.depth.setWidth 32)
  else if ¬ legalCtype s.ctype then some (.ctype, s.ctype.setWidth 32)
  else if ¬ legalIlace s.ilace then some (.ilace, s.ilace.setWidth 32)
  else if ¬ fits s.params.fbCapacity (area s) then some (.capacity, 0)
  else if s.ilace = 1 ∧ selfCheckSum s.params.passTable s.width.toNat s.height.toNat ≠ area s then some (.selfcheck, 0)
  else none

/-- What C.DECODE writes before its checks (44_commands.md R222). PW, PH and FT are unspecified from here until the
sequencer writes them (60_exceptions.md R250; log 21). -/
def beginDecode (s : State) : State :=
  freeDims
    { s with
      run := .run
      err := 0
      errInfo := 0
      errCur := 0
      warn := 0
      cur := 0
      pass := 0
      py := 0
      px := 0 }

/-- The zero fill of `FB[0 .. W*H-1]` (44_commands.md R222). -/
def zeroFill (s : State) : State := { s with fb := memStorePrefix (List.replicate (area s) 0) s.fb }

/-- C.DECODE (44_commands.md R222, R223): accepted in IDLE only (R221); the checks, the zero fill, and the first record's
position. The records themselves are fetched by the steps that follow, and the last of them completes the command
(log 1). DESIGN CHOICE (log 27; unsafe for a claim about such a decode): an interlaced decode under a pass table that fails
43_interlace_sequencer.md R210 and yet passes the self-check runs by the same formulas. -/
def execCDecode (s : State) : Host.Outcome State Fault Refusal :=
  if s.run = .idle then
    let t := beginDecode s
    match startCheck t with
    | some (e, info) => .next (takeFault .decode e info t)
    | none => .next (enterPass (zeroFill t) (allPasses t.ilace))
  else .refused .commandNotIdle

/-- The filtered pixel `(x, y)`: the source pixel less the source pixel to its left (44_commands.md R226). -/
def filteredSource (s : State) (y x : Nat) : Except Fault Pixel := do
  let p ← readFb s (y * s.width.toNat + x)
  let l ← if 0 < x then readFb s (y * s.width.toNat + x - 1) else .ok 0
  .ok (pauSub p l)

/-- The bytes of `n` filtered pixels of row `y` from column `x` on (44_commands.md R226). -/
def encodeRow (s : State) (y : Nat) : Nat → Nat → Except Fault (List Byte)
  | 0, _ => .ok []
  | n + 1, x => do
    let d ← filteredSource s y x
    let rest ← encodeRow s y n (x + 1)
    .ok (streamBytes d ++ rest)

/-- The records of `n` rows from row `y` on, each opened by filter type Sub (44_commands.md R226, 30_encoding.md R107). -/
def encodeRows (s : State) : Nat → Nat → Except Fault (List Byte)
  | 0, _ => .ok []
  | n + 1, y => do
    let row ← encodeRow s y s.width.toNat 0
    let rest ← encodeRows s n (y + 1)
    .ok (0x01 :: row ++ rest)

/-- The length of the stream C.ENCSUB writes (44_commands.md R226). -/
def encodedLength (s : State) : Nat := s.height.toNat * (1 + 4 * s.width.toNat)

/-- What C.ENCSUB writes before its checks (44_commands.md R226). At a start-check fault PASS, PY and PX are 0 and PW, PH and FT
unspecified (10_state.md R23, 60_exceptions.md R250; log 21). CUR and WARN are left alone: they are 0 in IDLE. -/
def beginEncode (s : State) : State :=
  freeDims
    { s with
      run := .run
      err := 0
      errInfo := 0
      errCur := 0
      outLen := 0
      pass := 0
      py := 0
      px := 0 }

/-- C.ENCSUB (44_commands.md R226): accepted in IDLE only (R221); the whole command in one step (log 2). -/
def execCEncsub (s : State) : Host.Outcome State Fault Refusal :=
  if s.run = .idle then
    let t := beginEncode s
    if t.width = 0 ∨ t.height = 0 then .next (takeFault .encode .zeroArea 0 t)
    else if ¬ fits t.params.fbCapacity (area t) ∨ ¬ fits t.params.outCapacity (encodedLength t) then
      .next (takeFault .encode .capacity 0 t)
    else
      match encodeRows t t.height.toNat 0 with
      | .error f => .fault f
      | .ok bytes => .next (finish { t with out := memStorePrefix bytes t.out, outLen := bytes.length })
  else .refused .commandNotIdle

/-- C.CLEAR (44_commands.md R225): accepted in IDLE, DONE and FAULT (R221). -/
def execCClear (s : State) : Host.Outcome State Fault Refusal :=
  if s.run = .run then .refused .hostMoveInRun else .next (clearCall s)

end Sys2Proof.Machine
end

