-- ==== Sys2Proof/Machine/Dispatch.lean ====
section
/-! DEFINITION. The dispatch: one arm per constructor of Instr, each one direct call of its meaning. -/

namespace Sys2Proof.Machine

def exec (i : Instr) (s : State) : Host.Outcome State Fault Refusal :=
  match i with
  | .fNone => Sys2Proof.Machine.execFNone s
  | .fSub => Sys2Proof.Machine.execFSub s
  | .fUp => Sys2Proof.Machine.execFUp s
  | .fAvg => Sys2Proof.Machine.execFAvg s
  | .fPaeth => Sys2Proof.Machine.execFPaeth s
  | .cDecode => Sys2Proof.Machine.execCDecode s
  | .cEncsub => Sys2Proof.Machine.execCEncsub s
  | .cClear => Sys2Proof.Machine.execCClear s
  | .pAdd p q => Sys2Proof.Machine.execPAdd p q s
  | .pSub p q => Sys2Proof.Machine.execPSub p q s
  | .pAvg p q => Sys2Proof.Machine.execPAvg p q s
  | .pPaeth a b c => Sys2Proof.Machine.execPPaeth a b c s
  | .uExtract base depth n => Sys2Proof.Machine.execUExtract base depth n s
  | .uCompose x => Sys2Proof.Machine.execUCompose x s
  | .uPalette x => Sys2Proof.Machine.execUPalette x s
  | .sDims k => Sys2Proof.Machine.execSDims k s
  | .sXform k x y => Sys2Proof.Machine.execSXform k x y s

end Sys2Proof.Machine
end

