-- ==== Sys2Proof/Decode.lean ====
section
/-! DEFINITION. The decoders, total on any code and rejecting by name, then the encoder, both written from the
encoding tables of 30_encoding.md (R92, R105, R106). -/

namespace Sys2Proof

/-- A code as one of the block's three decoders receives it: the filter-type byte of a record, the command
byte written to `CTRL`, or the PAU's select with its operand wires. The same number means different things to
different decoders, so the decoder is named (log 14). -/
inductive Code where
  | record (ft : Byte)
  | ctrl (cmd : Byte)
  | pau (psel : BitVec 2) (a b c : Pixel)
  deriving DecidableEq, Repr

/-- Why a decoder rejects a code. -/
inductive DecodeError where
  /-- A filter-type byte 0x05 .. 0xFF: the record step raises `E_FILTER` (60_exceptions.md R249). -/
  | illegalFilterType (ft : Byte)
  /-- A `CTRL` code 0 or 4 .. 255: the write is refused (93_implementation_defined.md U6). -/
  | reservedCommand (cmd : Byte)
  deriving DecidableEq, Repr

/-- Opcode map of the filter-type byte (30_encoding.md R92). -/
def decodeRecord (ft : Byte) : Except DecodeError Instr :=
  match ft.toNat with
  | 0 => .ok .fNone
  | 1 => .ok .fSub
  | 2 => .ok .fUp
  | 3 => .ok .fAvg
  | 4 => .ok .fPaeth
  | _ => .error (.illegalFilterType ft)

/-- Command codes of `CTRL` (30_encoding.md R105, 10_state.md R34). -/
def decodeCommand (cmd : Byte) : Except DecodeError Instr :=
  match cmd.toNat with
  | 1 => .ok .cDecode
  | 2 => .ok .cEncsub
  | 3 => .ok .cClear
  | _ => .error (.reservedCommand cmd)

/-- PAU operation select (30_encoding.md R106). The two-operand operations do not look at wire `c`. -/
def decodePau (psel : BitVec 2) (a b c : Pixel) : Instr :=
  match psel.toNat with
  | 0 => .pAdd a b
  | 1 => .pSub a b
  | 2 => .pAvg a b
  | _ => .pPaeth a b c

/-- Decode a code. -/
def decode : Code → Except DecodeError Instr
  | .record ft => decodeRecord ft
  | .ctrl cmd => decodeCommand cmd
  | .pau psel a b c => .ok (decodePau psel a b c)

/-- The `format` column of the opcode table. -/
def Instr.format : Instr → Format
  | .fNone | .fSub | .fUp | .fAvg | .fPaeth => .record
  | .cDecode | .cEncsub | .cClear => .ctrl
  | .pAdd _ _ | .pSub _ _ | .pAvg _ _ | .pPaeth _ _ _ => .pau
  | .uExtract _ _ _ | .uCompose _ | .uPalette _ | .sDims _ | .sXform _ _ _ => .internal

/-- The format of a code. -/
def Code.format : Code → Format
  | .record _ => .record
  | .ctrl _ => .ctrl
  | .pau _ _ _ _ => .pau

/-- The code of an instruction; an internal operation has none (opcode_table.json, format INTERNAL). -/
def encode : Instr → Option Code
  | .fNone => some (.record 0x00)
  | .fSub => some (.record 0x01)
  | .fUp => some (.record 0x02)
  | .fAvg => some (.record 0x03)
  | .fPaeth => some (.record 0x04)
  | .cDecode => some (.ctrl 0x01)
  | .cEncsub => some (.ctrl 0x02)
  | .cClear => some (.ctrl 0x03)
  | .pAdd p q => some (.pau 0 p q 0)
  | .pSub p q => some (.pau 1 p q 0)
  | .pAvg p q => some (.pau 2 p q 0)
  | .pPaeth a b c => some (.pau 3 a b c)
  | .uExtract _ _ _ | .uCompose _ | .uPalette _ | .sDims _ | .sXform _ _ _ => none

/-- A record line of the notation of 30_encoding.md R108: the filter-type byte, then the row bytes. -/
def assembleRecord (i : Instr) (row : List Byte) : Option (List Byte) :=
  match encode i with
  | some (.record ft) => some (ft :: row)
  | _ => none

/-- The instruction read from `nbits` bits of value `w`. A whole byte is read as the stream is: the opcode of
an instruction is the filter-type byte (30_encoding.md R92). Two bits alone are a PAU select, with its operand
wires at zero (R106). Which decoder a bare number is meant for is not in the number (log 14). -/
def decodeTableWord (nbits w : Nat) : Option Instr :=
  if nbits = 2 then some (decodePau (BitVec.ofNat 2 w) 0 0 0)
  else if 8 ≤ nbits then (decode (.record (BitVec.ofNat 8 w))).toOption
  else none

end Sys2Proof
end

