-- ==== Sys2Proof/Machine/HostPort.lean ====
section
/-! DEFINITION. The host port: what one move of the host does while no command runs (10_state.md R34 to R36, 20_memory.md R60,
70_reset_and_hazards.md R287). -/

namespace Sys2Proof.Machine

/-- What a host move comes to. -/
inductive HostResult where
  /-- It is done. -/
  | settled (s : State)
  /-- The spec gives it no meaning (93_implementation_defined.md U6 to U8). -/
  | refuse (r : Refusal)
  /-- It reads a location that holds no value (93_implementation_defined.md U2). -/
  | stuck (f : Fault)
  /-- It writes a command to `CTRL`. -/
  | command (i : Instr) (s : State)
  deriving DecidableEq, Repr

/-- Address `a` exists in space `sp` (20_memory.md R60). -/
def inSpace (p : Params) (sp : Space) (a : Nat) : Bool :=
  match sp with
  | .input => fits p.inCapacity (a + 1)
  | .fb => fits p.fbCapacity (a + 1)
  | .pal => decide (a < palSize p)
  | .out => fits p.outCapacity (a + 1)

/-- The unit at an address of a space, as a number. -/
def readUnit (s : State) (sp : Space) (a : Nat) : Option Nat :=
  match sp with
  | .input => (memRead s.input a).map BitVec.toNat
  | .fb => (memRead s.fb a).map BitVec.toNat
  | .pal => (memRead s.pal a).map BitVec.toNat
  | .out => (memRead s.out a).map BitVec.toNat

/-- A host write to memory: IDLE only (10_state.md R36, 93_implementation_defined.md U8), inside the space (U7). -/
def hostStore (s : State) (sp : Space) (a : Nat) (t : State) : HostResult :=
  if s.run ≠ .idle then .refuse .writeNotIdle
  else if inSpace s.params sp a then .settled t
  else .refuse (.hostOutsideSpace sp a)

/-- A write to `CTRL` (10_state.md R34): the low 8 bits (R35) are the command code; reserved codes are refused
(93_implementation_defined.md U6). -/
def writeCtrl (v : Nat) (s : State) : HostResult :=
  match decode (.ctrl (BitVec.ofNat 8 v)) with
  | .ok i => .command i s
  | .error _ => .refuse (.reservedCommand (BitVec.ofNat 8 v))

/-- One host move while no command runs. -/
def hostMove (op : HostOp) (s : State) : HostResult :=
  match op with
  | .writeReg n v =>
    if n = 0 then writeCtrl v s
    else if s.run ≠ .idle then .refuse .writeNotIdle
    else
      match writeReg n v s with
      | .ok t => .settled t
      | .error r => .refuse r
  | .readReg n => .settled { s with hostData := readReg s n }
  | .writeIn a v => hostStore s .input a { s with input := memWrite a v s.input }
  | .writePal a v => hostStore s .pal a { s with pal := memWrite a v s.pal }
  | .writeFb a v => hostStore s .fb a { s with fb := memWrite a v s.fb }
  | .read sp a =>
    if inSpace s.params sp a then
      match readUnit s sp a with
      | some v => .settled { s with hostData := v }
      | none => .stuck (.noValue sp a)
    else .refuse (.hostOutsideSpace sp a)

end Sys2Proof.Machine
end

