-- ==== Sys2Proof/Machine/Fetch.lean ====
section
/-! DEFINITION. The fetch of a scanline record: the part of the record step that comes before the filter type is known
(42_scanline_reconstructor.md R160), and the placing of a record for a single step. -/

namespace Sys2Proof.Machine

/-- What the fetch comes to. -/
inductive FetchResult where
  /-- A fault: `E_TRUNC` or `E_FILTER`. -/
  | faulted (s : State)
  /-- The byte at CUR holds no value (93_implementation_defined.md U2). -/
  | stuck (f : Fault)
  /-- The record's instruction, in the state with PX and FT set. -/
  | issue (i : Instr) (s : State)
  deriving DecidableEq, Repr

/-- Fetch at CUR (42_scanline_reconstructor.md R160): PX is 0; `E_TRUNC` where no byte is left, and FT is then unspecified
(10_state.md R23; log 21); FT is the byte; `E_FILTER` where it is above 4 (60_exceptions.md R249). -/
def fetch (s : State) : FetchResult :=
  if s.inLen ≤ s.cur then .faulted (takeFault .decode .trunc 0 (freeFilterType { s with px := 0 }))
  else
    match readIn s s.cur with
    | .error f => .stuck f
    | .ok b =>
      match decode (.record b) with
      | .error _ => .faulted (takeFault .decode .filter (b.setWidth 32) { s with px := 0, ft := b })
      | .ok i => .issue i { s with px := 0, ft := b }

/-- The state in which the next step fetches the record `first`, then the row byte `second`: a running decode of a 1 by 1
grey image at depth 8, with the record at CUR (log 15). -/
def placeRecord (s : State) (first second : Byte) : State :=
  { s with
    run := .run
    width := 1
    height := 1
    depth := 8
    ctype := 0
    ilace := 0
    pass := 0
    pw := 1
    ph := 1
    py := 0
    resetIn := none
    inLen := s.cur + 2
    input := memWrite (s.cur + 1) second (memWrite s.cur first s.input) }

end Sys2Proof.Machine
end

