-- ==== Sys2Proof/Machine/Step.lean ====
section
/-! DEFINITION. One step of the machine: the reset input, a record of a running decode, or a move of the host (log 1, 3, 5). -/

namespace Sys2Proof.Machine

/-- One step of a running decode: fetch, execute, and go on to the next record (42_scanline_reconstructor.md R160,
43_interlace_sequencer.md R207). -/
def stepRecord (s : State) : Host.Outcome State Fault Refusal :=
  match fetch s with
  | .faulted t => .next t
  | .stuck f => .fault f
  | .issue i t => afterRecord (exec i t)

/-- One step while no command runs: the host's next move, or nothing (44_commands.md R220; log 3). -/
def stepHost (s : State) : Host.Outcome State Fault Refusal :=
  match s.host with
  | [] => .next s
  | op :: rest =>
    match hostMove op { s with host := rest } with
    | .settled t => .next t
    | .refuse r => .refused r
    | .stuck f => .fault f
    | .command i t => exec i t

/-- One step without the reset input: the host has no move while STATE is RUN (10_state.md R36). -/
def stepOn (s : State) : Host.Outcome State Fault Refusal :=
  if s.run = .run then stepRecord s else stepHost s

/-- One step. The reset input is taken in any state, RUN included (70_reset_and_hazards.md R280). -/
def step (s : State) : Host.Outcome State Fault Refusal :=
  match s.resetIn with
  | some 0 => .next (applyReset s)
  | some (n + 1) => stepOn { s with resetIn := some n }
  | none => stepOn s

/-- `s` with the instruction of value `w` placed where the next step fetches it (log 15). -/
def State.withFetchWord (s : State) (_nbits w : Nat) : State :=
  placeRecord s (BitVec.ofNat 8 w) (BitVec.ofNat 8 (w / 256))

end Sys2Proof.Machine
end

