-- ==== Sys2Proof/Safety.lean ====
section
/-! DEFINITION. What counts as a well-formed machine and as a safe run: the conditions on memory, parameters, fault record
and a running decode that the claims use, and runs of several steps. -/

namespace Sys2Proof.Machine

/-- Every space is in canonical form. -/
def memoryWf (s : State) : Bool := memWf s.pal && memWf s.input && memWf s.fb && memWf s.out

/-- A stride of the 8 by 8 cell (43_interlace_sequencer.md R210). -/
def strideOk (d : Nat) : Bool := d == 1 || d == 2 || d == 4 || d == 8

/-- One row of a well-formed pass table (43_interlace_sequencer.md R210). -/
def geometryOk (g : Geometry) : Bool :=
  strideOk g.sx && strideOk g.sy && decide (g.x0 < g.sx) && decide (g.y0 < g.sy)

/-- Pass `k` visits cell position `(cx, cy)` (43_interlace_sequencer.md R209). -/
def visits (t : PassTable) (cx cy k : Nat) : Bool :=
  decide (cx % (geometryOf t k).sx = (geometryOf t k).x0) && decide (cy % (geometryOf t k).sy = (geometryOf t k).y0)

/-- Each of the 64 positions of the cell belongs to exactly one pass (43_interlace_sequencer.md R209, R210). -/
def cellPartition (t : PassTable) : Bool :=
  (List.range 8).all fun cx => (List.range 8).all fun cy => ([1, 2, 3, 4, 5, 6, 7].filter (visits t cx cy)).length == 1

/-- The well-formedness of a supplied pass table (43_interlace_sequencer.md R210). -/
def tableOk (t : PassTable) : Bool := ([1, 2, 3, 4, 5, 6, 7].all fun k => geometryOk (geometryOf t k)) && cellPartition t

/-- The host has written every byte of IN below IN_LEN (70_reset_and_hazards.md R283). -/
def StreamWritten (s : State) : Prop := ∀ a < s.inLen, (memRead s.input a).isSome

/-- The host has written every entry of PAL below PAL_LEN, if the decode is INDEXED (70_reset_and_hazards.md R283). -/
def PaletteWritten (s : State) : Prop := ctIndexed s.ctype = true → ∀ i < s.palLen.toNat, (memRead s.pal i).isSome

/-- `FB[0 .. W*H-1]` holds an image (70_reset_and_hazards.md R282). -/
def FrameWritten (s : State) : Prop := ∀ a < area s, (memRead s.fb a).isSome

/-- ERR, ERR_INFO and ERR_CUR are 0 but in FAULT, ERR is one of the nine codes in FAULT, and WARN's reserved bits read as 0
(10_state.md R25, R26, 60_exceptions.md R240). -/
def FaultRecordOk (s : State) : Prop :=
  (s.run ≠ .fault → s.err = 0 ∧ s.errInfo = 0 ∧ s.errCur = 0) ∧
  (s.run = .fault → 1 ≤ s.err.toNat ∧ s.err.toNat ≤ 9) ∧
  s.warn.toNat < 2

/-- In IDLE CUR, WARN and OUT_LEN are 0: reset and C.CLEAR, the only ways into IDLE, leave them so, and no host write reaches
them (10_state.md R35, R38, 44_commands.md R225). -/
def IdleOk (s : State) : Prop := s.run = .idle → s.cur = 0 ∧ s.warn = 0 ∧ s.outLen = 0

/-- The position registers describe a row of the current pass (10_state.md R23, 42_scanline_reconstructor.md R160). -/
def PositionOk (s : State) : Prop :=
  s.pass.toNat ∈ allPasses s.ilace ∧
  s.pw.toNat = passWidth s.params.passTable s.pass.toNat s.width.toNat ∧
  s.ph.toNat = passHeight s.params.passTable s.pass.toNat s.height.toNat ∧
  1 ≤ s.pw.toNat ∧ s.py.toNat < s.ph.toNat

/-- What the start checks and the zero fill of C.DECODE have established, as long as the decode runs
(44_commands.md R222). -/
def ConfigOk (s : State) : Prop :=
  s.width ≠ 0 ∧ s.height ≠ 0 ∧ legalDepth s.depth = true ∧ legalCtype s.ctype = true ∧ legalIlace s.ilace = true ∧
  fits s.params.fbCapacity (area s) = true

/-- The invariant of a running decode: its pass table meets R210, and while STATE is RUN the configuration is checked, FB is
filled, and the position registers describe a row. -/
def RunningOk (s : State) : Prop :=
  tableOk s.params.passTable = true ∧ (s.run = .run → ConfigOk s ∧ FrameWritten s ∧ PositionOk s)

/-- `n` steps, stopping at the first fault or refusal. -/
def stepN : Nat → State → Host.Outcome State Fault Refusal
  | 0, s => .next s
  | n + 1, s =>
    match step s with
    | .next t => stepN n t
    | .fault f => .fault f
    | .refused r => .refused r

/-- The instruction of a filter type (30_encoding.md R92). -/
def filterInstr : Filter → Instr
  | .none => .fNone
  | .sub => .fSub
  | .up => .fUp
  | .avg => .fAvg
  | .paeth => .fPaeth

/-- The pixel stored at pass-local `(x, y)` of the current pass of `s`, or 0 where the neighbour is missing
(42_scanline_reconstructor.md R162): `x` and `y` are one more than the coordinate looked at, so that 0 is "missing". -/
def storedBefore (s : State) (fb : Cells 32) (x1 y1 : Nat) : Option Pixel :=
  if x1 = 0 ∨ y1 = 0 then some 0 else memRead fb (lin s (x1 - 1) (y1 - 1))

/-- An address of the row that the current record stores to (42_scanline_reconstructor.md R163, R170). -/
def InRow (s : State) (a : Nat) : Prop := ∃ x < s.pw.toNat, a = lin s x s.py.toNat

end Sys2Proof.Machine
end

