-- ==== Sys2Proof/Certificates/Slice0/Obligations.lean ====
section
/-! DEFINITION. The statements for the provers. Each formalises rules of spec/ or rests on them (OBLIGATIONS.json says which). -/

open Sys2Proof Sys2Proof.Machine

/-! ## Encoding -/

/-- Every instruction that has a code is what its code decodes to, and every record byte and command byte that decodes
does so to the one instruction with that code (30_encoding.md R92, R105, R106). -/
def Obligations.DecodeEncodeRoundTrip : Prop :=
  (∀ (i : Instr) (c : Code), encode i = some c → decode c = .ok i) ∧
  (∀ (b : Byte) (i : Instr), decode (.record b) = .ok i → encode i = some (.record b)) ∧
  (∀ (b : Byte) (i : Instr), decode (.ctrl b) = .ok i → encode i = some (.ctrl b))

/-- Words written out from the encoding tables decode to their instruction (30_encoding.md R92, R105, R106). -/
def Obligations.TabledWordsDecode : Prop :=
  decode (.record 0b00000000) = .ok .fNone ∧ decode (.record 0b00000001) = .ok .fSub ∧
  decode (.record 0b00000010) = .ok .fUp ∧ decode (.record 0b00000011) = .ok .fAvg ∧
  decode (.record 0b00000100) = .ok .fPaeth ∧
  decode (.ctrl 0b00000001) = .ok .cDecode ∧ decode (.ctrl 0b00000010) = .ok .cEncsub ∧
  decode (.ctrl 0b00000011) = .ok .cClear ∧
  (∀ a b c : Pixel,
    decode (.pau 0b00 a b c) = .ok (.pAdd a b) ∧ decode (.pau 0b01 a b c) = .ok (.pSub a b) ∧
    decode (.pau 0b10 a b c) = .ok (.pAvg a b) ∧ decode (.pau 0b11 a b c) = .ok (.pPaeth a b c))

/-- Filter-type bytes above 4 and command codes 0 and 4 to 255 decode to nothing, each rejected by its own name
(30_encoding.md R92, R102, 10_state.md R34). -/
def Obligations.ReservedCodesRejected : Prop :=
  (∀ b : Byte, 4 < b.toNat → decode (.record b) = .error (.illegalFilterType b)) ∧
  (∀ b : Byte, b.toNat = 0 ∨ 3 < b.toNat → decode (.ctrl b) = .error (.reservedCommand b))

/-! ## Step -/

/-- A step of a running decode executes the instruction that the byte at CUR decodes to, with PX and FT set as the fetch sets
them, and then goes on to the next record (`afterRecord`); a step that takes a host write to `CTRL` executes the command that
the low byte decodes to. A reset input that is not yet due only counts down. -/
def Obligations.StepRunsDecodedInstruction : Prop :=
  (∀ (s : State) (b : Byte) (i : Instr),
    s.resetIn = none → s.run = .run → s.cur < s.inLen → memRead s.input s.cur = some b →
    decode (.record b) = .ok i →
    step s = afterRecord (exec i { s with px := 0, ft := b })) ∧
  (∀ (s : State) (v : Nat) (rest : List HostOp) (i : Instr),
    s.resetIn = none → s.run ≠ .run → s.host = .writeReg 0 v :: rest →
    decode (.ctrl (BitVec.ofNat 8 v)) = .ok i →
    step s = exec i { s with host := rest }) ∧
  (∀ (s : State) (n : Nat), step { s with resetIn := some (n + 1) } =
    (if s.run = .run then stepRecord { s with resetIn := some n } else stepHost { s with resetIn := some n }))

/-- With no command running and no host move left, nothing happens (the model's choice, log 3). -/
def Obligations.IdleMachineStaysPut : Prop :=
  ∀ s : State, s.resetIn = none → s.run ≠ .run → s.host = [] → step s = .next s

/-- What the sequencer does after a record: the next row of the pass; after the last row, row 0 of the next pass that is not
empty; where no such pass is left, DONE. CUR and FB are not touched (43_interlace_sequencer.md R205, R207). -/
def Obligations.SequencerVisitsRowsThenPasses : Prop :=
  ∀ s : State, s.run = .run → ConfigOk s → PositionOk s → tableOk s.params.passTable = true →
    (s.py.toNat + 1 < s.ph.toNat → afterRecord (.next s) = .next { s with py := s.py + 1 }) ∧
    (s.py.toNat + 1 = s.ph.toNat → ∀ k ∈ allPasses s.ilace, s.pass.toNat < k →
      1 ≤ passWidth s.params.passTable k s.width.toNat → 1 ≤ passHeight s.params.passTable k s.height.toNat →
      (∀ j ∈ allPasses s.ilace, s.pass.toNat < j → j < k →
        passWidth s.params.passTable j s.width.toNat = 0 ∨ passHeight s.params.passTable j s.height.toNat = 0) →
      ∃ t, afterRecord (.next s) = .next t ∧
        t = { s with pass := t.pass, pw := t.pw, ph := t.ph, py := 0 } ∧ t.pass.toNat = k ∧
        t.pw.toNat = passWidth s.params.passTable k s.width.toNat ∧
        t.ph.toNat = passHeight s.params.passTable k s.height.toNat) ∧
    (s.py.toNat + 1 = s.ph.toNat →
      (∀ j ∈ allPasses s.ilace, s.pass.toNat < j →
        passWidth s.params.passTable j s.width.toNat = 0 ∨ passHeight s.params.passTable j s.height.toNat = 0) →
      ∃ t, afterRecord (.next s) = .next t ∧ t.run = .done ∧ t.cur = s.cur ∧ t.fb = s.fb ∧ t.warn = s.warn ∧ t.err = s.err)

/-! ## Reset -/

/-- The reset state holds the values 10_state.md R38 states, and no location of a memory holds a value. -/
def Obligations.ResetHoldsStatedValues : Prop :=
  State.reset.run = .idle ∧ State.reset.err = 0 ∧ State.reset.errInfo = 0 ∧ State.reset.errCur = 0 ∧
  State.reset.warn = 0 ∧ State.reset.width = 0 ∧ State.reset.height = 0 ∧ State.reset.depth = 0 ∧
  State.reset.ctype = 0 ∧ State.reset.ilace = 0 ∧ State.reset.palLen = 0 ∧ State.reset.inLen = 0 ∧
  State.reset.cur = 0 ∧ State.reset.outLen = 0 ∧
  (∀ a, memRead State.reset.pal a = none ∧ memRead State.reset.input a = none ∧ memRead State.reset.fb a = none ∧
    memRead State.reset.out a = none)

/-- The reset input is taken in any state, RUN included, records no fault, and leaves the registers and memories as
10_state.md R38 states; the parameters stay (70_reset_and_hazards.md R280). -/
def Obligations.ResetTakenInAnyState : Prop :=
  ∀ s : State, s.resetIn = some 0 → ∃ t, step s = .next t ∧
    t.run = .idle ∧ t.err = 0 ∧ t.errInfo = 0 ∧ t.errCur = 0 ∧ t.warn = 0 ∧ t.width = 0 ∧ t.height = 0 ∧
    t.depth = 0 ∧ t.ctype = 0 ∧ t.ilace = 0 ∧ t.palLen = 0 ∧ t.inLen = 0 ∧ t.cur = 0 ∧ t.outLen = 0 ∧
    t.pal = [] ∧ t.input = [] ∧ t.fb = [] ∧ t.out = [] ∧
    t.params = s.params ∧ t.trace = s.trace ∧ t.host = s.host ∧ t.resetIn = none

/-! ## Pixel arithmetic -/

/-- P.ADD: `psel` 0; every lane is the sum modulo 256 (40_pixel_arithmetic.md R121). That it completes on its own, with its
result on the result port and nothing else written, is the model's choice (log 16). -/
def Obligations.AddIsLanewiseModulo256 : Prop :=
  ∀ (p q : Pixel) (s : State), (∀ c, decode (.pau 0 p q c) = .ok (.pAdd p q)) ∧
    ∃ r, exec (.pAdd p q) s = .next { s with result := .pixel r } ∧
    ∀ l < 4, (lane r l).toNat = ((lane p l).toNat + (lane q l).toNat) % 256

/-- P.SUB: `psel` 1; every lane is the difference modulo 256 (40_pixel_arithmetic.md R122). That it completes on its own, with its
result on the result port and nothing else written, is the model's choice (log 16). -/
def Obligations.SubIsLanewiseModulo256 : Prop :=
  ∀ (p q : Pixel) (s : State), (∀ c, decode (.pau 1 p q c) = .ok (.pSub p q)) ∧
    ∃ r, exec (.pSub p q) s = .next { s with result := .pixel r } ∧
    ∀ l < 4, ((lane r l).toNat : Int) = (((lane p l).toNat : Int) - ((lane q l).toNat : Int)) % 256

/-- P.AVG: `psel` 2; every lane is the floor of half the unreduced sum (40_pixel_arithmetic.md R123). That it
completes on its own, with its result on the result port and nothing else written, is the model's choice (log 16). -/
def Obligations.AvgIsLanewiseFloor : Prop :=
  ∀ (p q : Pixel) (s : State), (∀ c, decode (.pau 2 p q c) = .ok (.pAvg p q)) ∧
    ∃ r, exec (.pAvg p q) s = .next { s with result := .pixel r } ∧
    ∀ l < 4, (lane r l).toNat = ((lane p l).toNat + (lane q l).toNat) / 2

/-- P.PAETH: `psel` 3; every lane is the one of left, above, above-left nearest to left + above - above-left, ties to left and
then to above, with the distances in the rule's second form, as integers (40_pixel_arithmetic.md R124). That it
completes on its own, with its result on the result port and nothing else written, is the model's choice (log 16). -/
def Obligations.PaethPicksNearestLane : Prop :=
  ∀ (a b c : Pixel) (s : State), decode (.pau 3 a b c) = .ok (.pPaeth a b c) ∧
    ∃ r, exec (.pPaeth a b c) s = .next { s with result := .pixel r } ∧
    ∀ l < 4,
      let al : Int := (lane a l).toNat
      let bl : Int := (lane b l).toNat
      let cl : Int := (lane c l).toNat
      let pa := |bl - cl|
      let pb := |al - cl|
      let pc := |al + bl - 2 * cl|
      lane r l = if pa ≤ pb ∧ pa ≤ pc then lane a l else if pb ≤ pc then lane b l else lane c l

/-- Subtraction and addition undo each other for all pixels (40_pixel_arithmetic.md R125). -/
def Obligations.AddAndSubAreInverse : Prop :=
  ∀ p q : Pixel, pauAdd (pauSub p q) q = p ∧ pauSub (pauAdd p q) q = p

/-- The Paeth predictor where neighbours are missing: the left one in the first row, the above one in the first column
(40_pixel_arithmetic.md R124). -/
def Obligations.PaethOfMissingNeighbours : Prop :=
  ∀ a b : Pixel, pauPaeth a 0 0 = a ∧ pauPaeth 0 b 0 = b ∧ pauPaeth a a a = a

/-! ## Unpacker -/

/-- U.EXTRACT at the four depths: the byte at `base + i div spb`, shifted right by `(spb - 1 - i mod spb) * depth` and cut to
`depth` bits (41_bit_depth_unpacker.md R140). A byte that holds no value stops it (20_memory.md R79,
93_implementation_defined.md U2). The model's choices: its result goes to the result port and nothing else is written (log 16);
it completes in any STATE and does not look at IN_LEN (log 17). -/
def Obligations.ExtractTakesSample : Prop :=
  ∀ (s : State) (base depth i : Nat), depth ∈ [1, 2, 4, 8] →
    (∀ byte, memRead s.input (base + i / (8 / depth)) = some byte →
      ∃ r, exec (.uExtract base depth i) s = .next { s with result := .sample r } ∧
        r.toNat = byte.toNat / 2 ^ ((8 / depth - 1 - i % (8 / depth)) * depth) % 2 ^ depth) ∧
    (memRead s.input (base + i / (8 / depth)) = none →
      exec (.uExtract base depth i) s = .fault (.noValue .input (base + i / (8 / depth))))

/-- ROWBYTES is `ceil_div(PW * SPP * DEPTH, 8)`, with the samples per pixel of each legal colour type, and every sample of a row
lies in the row: its byte is below `CUR + 1 + ROWBYTES` (30_encoding.md R91, R93, R98, 41_bit_depth_unpacker.md R140). The
samples per pixel of types 0, 2 and 4 are general knowledge (log 13). -/
def Obligations.SamplesLieInTheirRow : Prop :=
  ∀ s : State, s.depth.toNat ∈ [1, 2, 4, 8] →
    (∀ i < s.pw.toNat * samplesPerPixel s.ctype,
      s.cur + 1 ≤ sampleAddr (s.cur + 1) s.depth.toNat i ∧
      sampleAddr (s.cur + 1) s.depth.toNat i < s.cur + 1 + rowBytes s) ∧
    (∀ spp, (s.ctype, spp) ∈ [((0 : Byte), 1), (2, 3), (3, 1), (4, 2), (6, 4)] →
      samplesPerPixel s.ctype = spp ∧ rowBytes s = (s.pw.toNat * spp * s.depth.toNat + 7) / 8) ∧
    ∀ i, sampleAddr (s.cur + 1) s.depth.toNat i = s.cur + 1 + i / (8 / s.depth.toNat)

/-- U.COMPOSE, by colour type: the widened samples in channel order, grey in three lanes, alpha lane 0 where
the type has no alpha; nothing but `x[V]` is written (41_bit_depth_unpacker.md R142). The samples per pixel of types 0, 2 and 4
are general knowledge (30_encoding.md R98, log 13); that it completes in any STATE and at any column is the model's choice
(log 17). -/
def Obligations.ComposeByColourType : Prop :=
  ∀ (s : State) (x spp : Nat) (raw : Nat → Byte), s.depth.toNat ∈ [1, 2, 4, 8] →
    (s.ctype, spp) ∈ [((0 : Byte), 1), (2, 3), (4, 2), (6, 4)] →
    (∀ c < spp, extractSample s (s.cur + 1) s.depth.toNat (x * spp + c) = .ok (raw c)) →
    let w := fun c => widenSample s.params.widen s.depth.toNat (raw c)
    let word : Pixel :=
      if s.ctype = 0 then pack (w 0) (w 0) (w 0) 0
      else if s.ctype = 2 then pack (w 0) (w 1) (w 2) 0
      else if s.ctype = 4 then pack (w 0) (w 0) (w 0) (w 1)
      else pack (w 0) (w 1) (w 2) (w 3)
    exec (.uCompose x) s = .next { s with latches := { s.latches with v := word } }

/-- WIDEN is the identity at depth 8 whatever the parameter says, the supplied lane value where the parameter has one for the
sample, and zero-extension where it has none, as in the default (41_bit_depth_unpacker.md R143; the parameter's form is log
11). -/
def Obligations.WidenDefaultIsZeroExtension : Prop :=
  (∀ (t : WidenTable) (b : Byte), widenSample t 8 b = b) ∧
  (∀ (t : WidenTable) (b v : Byte), (t.d1[b.toNat]? = some v → widenSample t 1 b = v) ∧
    (t.d2[b.toNat]? = some v → widenSample t 2 b = v) ∧ (t.d4[b.toNat]? = some v → widenSample t 4 b = v)) ∧
  (∀ (t : WidenTable) (b : Byte), (t.d1[b.toNat]? = none → widenSample t 1 b = b) ∧
    (t.d2[b.toNat]? = none → widenSample t 2 b = b) ∧ (t.d4[b.toNat]? = none → widenSample t 4 b = b)) ∧
  (∀ (depth : Nat) (b : Byte), depth ∈ [1, 2, 4, 8] → widenSample State.reset.params.widen depth b = b)

/-- U.PALETTE: an index below PAL_LEN loads the entry's colour with alpha 0xFF into `x[V]` and writes nothing
else; an entry that holds no value is stuck (20_memory.md R79); an index at or above PAL_LEN takes `E_PALIDX` with the index, PX
the pixel's column, CUR the record, and FB at or above `W * H` keeps its values (41_bit_depth_unpacker.md R144,
60_exceptions.md R250, R251, R253). That it does so in every STATE and whatever CTYPE is, is the model's choice (log 17): the
rules are for an INDEXED record of a running decode. -/
def Obligations.PaletteLooksUpOrFaults : Prop :=
  ∀ (s : State) (x : Nat) (i : Byte), s.depth.toNat ∈ [1, 2, 4, 8] →
    extractSample s (s.cur + 1) s.depth.toNat x = .ok i →
    (∀ e : PalEntry, i.toNat < s.palLen.toNat → memRead s.pal i.toNat = some e →
      exec (.uPalette x) s = .next { s with latches := { s.latches with v := e ++ (0xFF : Byte) } }) ∧
    (i.toNat < s.palLen.toNat → memRead s.pal i.toNat = none → exec (.uPalette x) s = .fault (.noValue .pal i.toNat)) ∧
    (s.palLen.toNat ≤ i.toNat → x < 2 ^ 32 →
      ∃ t, exec (.uPalette x) s = .next t ∧ t.run = .fault ∧ t.err = 9 ∧ t.errInfo.toNat = i.toNat ∧ t.errCur = s.cur ∧
        t.px.toNat = x ∧ t = { s with
          run := .fault, err := 9, errInfo := t.errInfo, errCur := s.cur, px := t.px, latches := t.latches, fb := t.fb
          trace := t.trace, seed := t.seed } ∧
        ∀ a, area s ≤ a → memRead t.fb a = memRead s.fb a)

/-- U.COMPOSE and U.PALETTE are stuck at the first byte, in channel order, that holds no value, whichever channel reads it
(20_memory.md R79, 41_bit_depth_unpacker.md R142, R144, 93_implementation_defined.md U2). That they do so in every STATE and at
any column is the model's choice (log 17). -/
def Obligations.UnpackerStuckOnMissingByte : Prop :=
  ∀ (s : State) (x : Nat), s.depth.toNat ∈ [1, 2, 4, 8] →
    (∀ spp c, (s.ctype, spp) ∈ [((0 : Byte), 1), (2, 3), (4, 2), (6, 4)] → c < spp →
      (∀ d < c, (memRead s.input (s.cur + 1 + (x * spp + d) / (8 / s.depth.toNat))).isSome) →
      memRead s.input (s.cur + 1 + (x * spp + c) / (8 / s.depth.toNat)) = none →
      exec (.uCompose x) s = .fault (.noValue .input (s.cur + 1 + (x * spp + c) / (8 / s.depth.toNat)))) ∧
    (memRead s.input (s.cur + 1 + x / (8 / s.depth.toNat)) = none →
      exec (.uPalette x) s = .fault (.noValue .input (s.cur + 1 + x / (8 / s.depth.toNat))))

/-! ## Interlace -/

/-- S.DIMS: PW and PH are the ceilings of rule R202, exact for all 32-bit W and H; nothing else is written
(43_interlace_sequencer.md R202). That it completes in any STATE is the model's choice (log 17). -/
def Obligations.DimsAreCeilings : Prop :=
  ∀ (s : State) (k : Nat), k ≤ 7 → tableOk s.params.passTable = true →
    let g := geometryOf s.params.passTable k
    ∃ t, exec (.sDims k) s = .next t ∧ t = { s with pw := t.pw, ph := t.ph } ∧
      t.pw.toNat = (if g.x0 < s.width.toNat then (s.width.toNat - g.x0 + g.sx - 1) / g.sx else 0) ∧
      t.ph.toNat = (if g.y0 < s.height.toNat then (s.height.toNat - g.y0 + g.sy - 1) / g.sy else 0)

/-- S.XFORM: offset plus stride times coordinate on each axis, with the identity for pass 0 (43_interlace_sequencer.md R200,
R203). The model's choices: its result goes to the result port and nothing else is written (log 16); it completes in any STATE
and outside the pass (log 17). -/
def Obligations.XformIsOffsetPlusStride : Prop :=
  ∀ (s : State) (k x y : Nat), k ≤ 7 →
    let g := geometryOf s.params.passTable k
    exec (.sXform k x y) s = .next { s with result := .point (g.x0 + x * g.sx) (g.y0 + y * g.sy) } ∧
    (k = 0 → exec (.sXform k x y) s = .next { s with result := .point x y })

/-- The linear address of a pass-local pixel is `py * W + px` of its transform, for every pass, and the records address FB by it
under the current pass; every such address the block forms is in range, for every well-formed pass table (20_memory.md R73,
43_interlace_sequencer.md R204). -/
def Obligations.PassAddressesInRange : Prop :=
  (∀ (t : PassTable) (k w x y : Nat), linAddr t w k x y = (xform t k x y).2 * w + (xform t k x y).1) ∧
  (∀ (s : State) (x y : Nat), let g := geometryOf s.params.passTable s.pass.toNat
    lin s x y = (g.y0 + y * g.sy) * s.width.toNat + (g.x0 + x * g.sx)) ∧
  ∀ (t : PassTable) (k w h x y : Nat), tableOk t = true → k ≤ 7 → x < passWidth t k w → y < passHeight t k h →
    (xform t k x y).1 < w ∧ (xform t k x y).2 < h ∧ linAddr t w k x y < w * h

/-- Under every well-formed pass table each full-image pixel belongs to exactly one pass and one pass-local pixel of it, at any
image size (43_interlace_sequencer.md R209 (a), R210). -/
def Obligations.PassesPartitionImage : Prop :=
  ∀ (t : PassTable) (w h px py : Nat), tableOk t = true → px < w → py < h →
    ∃ k x y, (1 ≤ k ∧ k ≤ 7 ∧ x < passWidth t k w ∧ y < passHeight t k h ∧ xform t k x y = (px, py)) ∧
      ∀ k' x' y', 1 ≤ k' → k' ≤ 7 → x' < passWidth t k' w → y' < passHeight t k' h → xform t k' x' y' = (px, py) →
        k' = k ∧ x' = x ∧ y' = y

/-- The default pass table is well formed, and under it the self-check never fails, whatever the image size
(43_interlace_sequencer.md R206, R209 (b)). The table's numbers are general knowledge (log 12). -/
def Obligations.DefaultSelfCheckNeverFails : Prop :=
  tableOk State.reset.params.passTable = true ∧
  ∀ w h : Nat, selfCheckSum State.reset.params.passTable w h = w * h

/-! ## Scanline records -/

/-- A record of each filter type on a non-indexed image: it completes; CUR moves past it; every pixel of the row holds the raw
pixel word plus the filter's prediction from the left pixel just stored and the above and above-left pixels stored before,
missing ones 0, and where bit 2 of CTYPE is 0 the alpha lane 0xFF in place of what the filter gave; every other FB
address, register and memory is unchanged
(42_scanline_reconstructor.md R160 to R169, R172). -/
def Obligations.FilteredRecordReconstructsRow : Prop :=
  ∀ (f : Filter) (s : State), s.run = .run → RunningOk s → ctIndexed s.ctype = false →
    s.cur + 1 + rowBytes s ≤ s.inLen → StreamWritten s →
    ∃ t, exec (filterInstr f) s = .next t ∧
      t = { s with
        latches := t.latches, px := t.px, ft := filterCode f, cur := s.cur + 1 + rowBytes s, fb := t.fb, seed := t.seed } ∧
      (∀ x < s.pw.toNat, ∃ v a b c, composePixel s x = .ok v ∧
        storedBefore s t.fb x (s.py.toNat + 1) = some a ∧ storedBefore s s.fb (x + 1) s.py.toNat = some b ∧
        storedBefore s s.fb x s.py.toNat = some c ∧
        let p : Pixel := match f with
          | .none => v
          | .sub => pauAdd v a
          | .up => pauAdd v b
          | .avg => pauAdd v (pauAvg a b)
          | .paeth => pauAdd v (pauPaeth a b c)
        memRead t.fb (lin s x s.py.toNat) =
          some (if s.ctype.getLsbD 2 then p else (p &&& 0xFFFFFF00) ||| 0x000000FF)) ∧
      ∀ a, ¬ InRow s a → memRead t.fb a = memRead s.fb a

/-- A record of each filter type on an indexed image whose indices are all below PAL_LEN: it completes, the filter is not
applied, every pixel of the row holds its palette colour with alpha 0xFF, and WARN bit 0 is raised exactly where the filter
type is not 0; everything else is unchanged (42_scanline_reconstructor.md R170, R171, 60_exceptions.md R255, R256). -/
def Obligations.IndexedRecordIgnoresFilter : Prop :=
  ∀ (f : Filter) (s : State), s.run = .run → RunningOk s → ctIndexed s.ctype = true →
    s.cur + 1 + rowBytes s ≤ s.inLen → StreamWritten s → PaletteWritten s →
    (∀ x < s.pw.toNat, ∀ i, extractSample s (s.cur + 1) s.depth.toNat x = .ok i → i.toNat < s.palLen.toNat) →
    ∃ t, exec (filterInstr f) s = .next t ∧
      t = { s with
        latches := t.latches, px := t.px, ft := filterCode f, cur := s.cur + 1 + rowBytes s, fb := t.fb, seed := t.seed
        warn := if f = .none then s.warn else s.warn ||| 1
        trace := if f = .none then s.trace else s.trace ++ [.warnIdxFilt s.pass s.py (filterCode f)] } ∧
      (∀ x < s.pw.toNat, ∃ i e, extractSample s (s.cur + 1) s.depth.toNat x = .ok i ∧ memRead s.pal i.toNat = some e ∧
        memRead t.fb (lin s x s.py.toNat) = some (e ++ (0xFF : Byte))) ∧
      ∀ a, ¬ InRow s a → memRead t.fb a = memRead s.fb a

/-- An indexed record faults with `E_PALIDX` at its leftmost pixel whose index is not below PAL_LEN, after its warning; the
position registers hold that pixel, and configuration, CUR and FB outside the image are unchanged (60_exceptions.md R250 to
R252). -/
def Obligations.PaletteFaultAtLeftmostPixel : Prop :=
  ∀ (f : Filter) (s : State) (x : Nat) (i : Byte), s.run = .run → RunningOk s → ctIndexed s.ctype = true →
    s.cur + 1 + rowBytes s ≤ s.inLen → StreamWritten s → PaletteWritten s → x < s.pw.toNat →
    extractSample s (s.cur + 1) s.depth.toNat x = .ok i → s.palLen.toNat ≤ i.toNat →
    (∀ y < x, ∀ j, extractSample s (s.cur + 1) s.depth.toNat y = .ok j → j.toNat < s.palLen.toNat) →
    ∃ t, exec (filterInstr f) s = .next t ∧ t.errInfo.toNat = i.toNat ∧ t.px.toNat = x ∧
      t = { s with
        run := .fault, err := 9, errInfo := t.errInfo, errCur := s.cur, px := t.px, ft := filterCode f
        warn := if f = .none then s.warn else s.warn ||| 1
        latches := t.latches, fb := t.fb, trace := t.trace, seed := t.seed } ∧
      ∀ a, area s ≤ a → memRead t.fb a = memRead s.fb a

/-- A record whose row is not complete in IN faults with `E_TRUNC`, whatever the colour type: PX is 0, FT the filter type, WARN
and every other register as it was, and FB outside the image is unchanged (42_scanline_reconstructor.md R160,
60_exceptions.md R248, R250). -/
def Obligations.ShortRowFaultsTruncated : Prop :=
  ∀ (f : Filter) (s : State), s.run = .run → ConfigOk s → PositionOk s → s.inLen < s.cur + 1 + rowBytes s →
    ∃ t, exec (filterInstr f) s = .next t ∧
      t = { s with
        run := .fault, err := 7, errInfo := 0, errCur := s.cur, px := 0, ft := filterCode f
        latches := t.latches, fb := t.fb, trace := t.trace, seed := t.seed } ∧
      ∀ a, area s ≤ a → memRead t.fb a = memRead s.fb a

/-- The record step before its filter type is known: with no byte left in IN it faults with `E_TRUNC` (FT is then left
unspecified, every other register is as it was, PX is 0, and FB outside the image is unchanged); a filter-type byte that holds
no value is stuck (42_scanline_reconstructor.md R160, 60_exceptions.md R248, R250, R252, 93_implementation_defined.md U2). -/
def Obligations.FetchFaultsTruncated : Prop :=
  ∀ s : State, s.resetIn = none → s.run = .run →
    (s.inLen ≤ s.cur → ∃ t, step s = .next t ∧
      t = { s with
        run := .fault, err := 7, errInfo := 0, errCur := s.cur, px := 0, ft := t.ft
        latches := t.latches, fb := t.fb, trace := t.trace, seed := t.seed } ∧
      ∀ a, area s ≤ a → memRead t.fb a = memRead s.fb a) ∧
    (s.cur < s.inLen → memRead s.input s.cur = none → step s = .fault (.noValue .input s.cur))

/-- A filter-type byte of 5 or more faults with `E_FILTER` and the byte, at the byte's address, whatever the colour type and
however long the stream is; every other register is as it was, PX is 0, and FB outside the image is unchanged
(60_exceptions.md R249). -/
def Obligations.IllegalFilterTypeFaults : Prop :=
  ∀ (s : State) (b : Byte), s.resetIn = none → s.run = .run → s.cur < s.inLen → memRead s.input s.cur = some b →
    5 ≤ b.toNat → ∃ t, step s = .next t ∧ t.errInfo.toNat = b.toNat ∧
      t = { s with
        run := .fault, err := 8, errInfo := t.errInfo, errCur := s.cur, px := 0, ft := b
        latches := t.latches, fb := t.fb, trace := t.trace, seed := t.seed } ∧
      ∀ a, area s ≤ a → memRead t.fb a = memRead s.fb a

/-! ## Commands -/

/-- C.DECODE in IDLE with a configuration that fails a start check: the first check that fails, in the order of the rule, is
the one reported, with its information word; CUR, PASS, PY, PX and WARN are 0, the configuration is unchanged, FB outside the
image is unchanged (44_commands.md R222, 60_exceptions.md R242 to R247, R250, R252). -/
def Obligations.DecodeReportsFirstFailedCheck : Prop :=
  ∀ s : State, s.run = .idle →
    let w := s.width.toNat
    let h := s.height.toNat
    let sum := ((List.range 7).map fun k =>
      passWidth s.params.passTable (k + 1) w * passHeight s.params.passTable (k + 1) h).sum
    let zero := w = 0 ∨ h = 0
    let depth := s.depth.toNat ∉ [1, 2, 4, 8]
    let ctype := s.ctype.toNat ∉ [0, 2, 3, 4, 6]
    let ilace := 1 < s.ilace.toNat
    let capacity := ∃ c, s.params.fbCapacity = some c ∧ c < w * h
    let selfcheck := s.ilace.toNat = 1 ∧ sum ≠ w * h
    (zero ∨ depth ∨ ctype ∨ ilace ∨ capacity ∨ selfcheck) →
    ∃ t, exec .cDecode s = .next t ∧
      t = { s with
        run := .fault, err := t.err, errInfo := t.errInfo, errCur := 0, warn := 0, cur := 0, pass := 0, py := 0, px := 0
        pw := t.pw, ph := t.ph, ft := t.ft, latches := t.latches, fb := t.fb, trace := t.trace, seed := t.seed } ∧
      (zero → t.err = 1 ∧ t.errInfo = 0) ∧
      (¬ zero → depth → t.err = 2 ∧ t.errInfo.toNat = s.depth.toNat) ∧
      (¬ zero → ¬ depth → ctype → t.err = 3 ∧ t.errInfo.toNat = s.ctype.toNat) ∧
      (¬ zero → ¬ depth → ¬ ctype → ilace → t.err = 4 ∧ t.errInfo.toNat = s.ilace.toNat) ∧
      (¬ zero → ¬ depth → ¬ ctype → ¬ ilace → capacity → t.err = 5 ∧ t.errInfo = 0) ∧
      (¬ zero → ¬ depth → ¬ ctype → ¬ ilace → ¬ capacity → t.err = 6 ∧ t.errInfo = 0) ∧
      ∀ a, w * h ≤ a → memRead t.fb a = memRead s.fb a

/-- C.DECODE in IDLE with a configuration that passes every start check: STATE is RUN, CUR and the fault record and WARN are 0,
`FB[0 .. W*H-1]` is zero and the rest of FB untouched, and the position registers describe row 0 of the first pass that is
not empty; nothing else is written (44_commands.md R222, 43_interlace_sequencer.md R205, R207). -/
def Obligations.DecodeStartsAtFirstPass : Prop :=
  ∀ s : State, s.run = .idle → ConfigOk s → tableOk s.params.passTable = true →
    (s.ilace = 1 → selfCheckSum s.params.passTable s.width.toNat s.height.toNat = area s) →
    ∃ t, exec .cDecode s = .next t ∧
      t = { s with
        run := .run, err := 0, errInfo := 0, errCur := 0, warn := 0, cur := 0, pass := t.pass, pw := t.pw, ph := t.ph
        py := 0, px := 0, ft := t.ft, fb := t.fb, seed := t.seed } ∧
      PositionOk t ∧
      (∀ j ∈ allPasses s.ilace, j < t.pass.toNat →
        passWidth s.params.passTable j s.width.toNat = 0 ∨ passHeight s.params.passTable j s.height.toNat = 0) ∧
      ∀ a, memRead t.fb a = if a < area s then some 0 else memRead s.fb a

/-- C.ENCSUB in IDLE on an image that fits: OUT holds, row after row, the byte 1 and then the red, green, blue and alpha lanes
of each pixel less the source pixel to its left, 0 at column 0; OUT_LEN is `H * (1 + 4W)`; OUT beyond that, FB, WARN, CUR and
the configuration are unchanged (44_commands.md R226, 30_encoding.md R107). -/
def Obligations.EncsubWritesFilteredStream : Prop :=
  ∀ s : State, s.run = .idle → s.width ≠ 0 → s.height ≠ 0 → FrameWritten s →
    fits s.params.fbCapacity (s.width.toNat * s.height.toNat) = true →
    fits s.params.outCapacity (s.height.toNat * (1 + 4 * s.width.toNat)) = true →
    let w := s.width.toNat
    let h := s.height.toNat
    ∃ t, exec .cEncsub s = .next t ∧
      t = { s with
        run := .done, err := 0, errInfo := 0, errCur := 0, outLen := h * (1 + 4 * w), out := t.out
        pass := t.pass, pw := t.pw, ph := t.ph, py := t.py, px := t.px, ft := t.ft, latches := t.latches, seed := t.seed } ∧
      (∀ y < h, memRead t.out (y * (1 + 4 * w)) = some 1 ∧
        ∀ x < w, ∃ p l, memRead s.fb (y * w + x) = some p ∧
          (if x = 0 then l = 0 else memRead s.fb (y * w + x - 1) = some l) ∧
          ∀ c < 4, memRead t.out (y * (1 + 4 * w) + 1 + 4 * x + c) = some (lane (pauSub p l) c)) ∧
      ∀ a, h * (1 + 4 * w) ≤ a → memRead t.out a = memRead s.out a

/-- C.ENCSUB in IDLE on an empty image, or one that does not fit: `E_ZERO_AREA`, else `E_CAPACITY`, with OUT_LEN 0 and the
position and cursor of a start-check fault, PASS, PY, PX and CUR 0; FB, WARN (0 in IDLE) and the configuration are unchanged
(44_commands.md R226, 60_exceptions.md R242, R246, R250, R252). That PASS, PY and PX are 0 here is read from R250 and R23
(log 21). `IdleOk` is an invariant of its own (`StepKeepsIdleCleared`). -/
def Obligations.EncsubFaultsEmptyOrTooLarge : Prop :=
  ∀ s : State, s.run = .idle → IdleOk s →
    let zero := s.width = 0 ∨ s.height = 0
    let full := fits s.params.fbCapacity (s.width.toNat * s.height.toNat) = false ∨
      fits s.params.outCapacity (s.height.toNat * (1 + 4 * s.width.toNat)) = false
    (zero ∨ full) →
    ∃ t, exec .cEncsub s = .next t ∧
      t = { s with
        run := .fault, err := t.err, errInfo := 0, errCur := 0, warn := 0, cur := 0, pass := 0, py := 0, px := 0
        outLen := 0, out := t.out, pw := t.pw, ph := t.ph, ft := t.ft, latches := t.latches, trace := t.trace
        seed := t.seed } ∧
      (zero → t.err = 1) ∧ (¬ zero → t.err = 5)

/-- C.ENCSUB in IDLE on an image that fits but has a pixel that holds no value is stuck at the first such pixel, in address order
(20_memory.md R79, 93_implementation_defined.md U2). -/
def Obligations.EncsubStuckOnMissingPixel : Prop :=
  ∀ (s : State) (a : Nat), s.run = .idle → s.width ≠ 0 → s.height ≠ 0 →
    fits s.params.fbCapacity (s.width.toNat * s.height.toNat) = true →
    fits s.params.outCapacity (s.height.toNat * (1 + 4 * s.width.toNat)) = true →
    a < area s → memRead s.fb a = none → (∀ b < a, (memRead s.fb b).isSome) →
    exec .cEncsub s = .fault (.noValue .fb a)

/-- C.CLEAR in IDLE, DONE and FAULT: every status, configuration and length register has its reset value, PAL and IN hold no
value, FB and OUT keep theirs; only the position registers and latches are left unspecified (44_commands.md R225). That IN
holds no value is the model's reading (log 10). -/
def Obligations.ClearDiscardsCallState : Prop :=
  ∀ s : State, s.run ≠ .run → ∃ t, exec .cClear s = .next t ∧
    t = { s with
      run := .idle, err := 0, errInfo := 0, errCur := 0, warn := 0, width := 0, height := 0, depth := 0, ctype := 0
      ilace := 0, palLen := 0, inLen := 0, cur := 0, outLen := 0, pal := [], input := []
      pass := t.pass, pw := t.pw, ph := t.ph, py := t.py, px := t.px, ft := t.ft, latches := t.latches, seed := t.seed }

/-- Which command is accepted in which STATE, as a write to `CTRL` meets it: outside IDLE and RUN the two commands that work on
an image are refused; a reserved code is refused everywhere; C.CLEAR runs (44_commands.md R221, 93_implementation_defined.md
U6, U9). -/
def Obligations.CommandAcceptance : Prop :=
  ∀ (s : State) (v : Nat) (rest : List HostOp), s.resetIn = none → s.run ≠ .run → s.host = .writeReg 0 v :: rest →
    (v % 256 = 1 ∨ v % 256 = 2 → s.run ≠ .idle → step s = .refused .commandNotIdle) ∧
    (v % 256 = 3 → ∃ t, step s = .next t ∧ t.run = .idle) ∧
    (v % 256 = 0 ∨ 3 < v % 256 → step s = .refused (.reservedCommand (BitVec.ofNat 8 v)))

/-- Where an operation is invoked outside the domain its rule gives it, it is refused by name: a record outside the record
step's preconditions, a command while one runs, a depth or a colour type or a pass its rule has no case for (the model's
stops, log 17, log 18). -/
def Obligations.OutOfDomainRefused : Prop :=
  (∀ (f : Filter) (s : State), s.depth.toNat ∉ [1, 2, 4, 8] ∨ s.ctype.toNat ∉ [0, 2, 3, 4, 6] ∨ s.pw = 0 ∨
      s.ph.toNat ≤ s.py.toNat → exec (filterInstr f) s = .refused .recordPreconditions) ∧
  (∀ s : State, s.run = .run → exec .cDecode s = .refused .commandNotIdle ∧ exec .cEncsub s = .refused .commandNotIdle ∧
    exec .cClear s = .refused .hostMoveInRun) ∧
  (∀ (s : State) (base depth i : Nat), depth ∉ [1, 2, 4, 8] →
    exec (.uExtract base depth i) s = .refused (.undefinedDepth depth)) ∧
  (∀ (s : State) (x : Nat), s.depth.toNat ∉ [1, 2, 4, 8] →
    exec (.uCompose x) s = .refused (.undefinedDepth s.depth.toNat) ∧
    exec (.uPalette x) s = .refused (.undefinedDepth s.depth.toNat)) ∧
  (∀ (s : State) (x : Nat), s.depth.toNat ∈ [1, 2, 4, 8] → s.ctype.toNat ∉ [0, 2, 4, 6] →
    exec (.uCompose x) s = .refused (.noComposition s.ctype)) ∧
  (∀ (s : State) (k x y : Nat), 7 < k → exec (.sXform k x y) s = .refused (.undefinedPass k) ∧
    exec (.sDims k) s = .refused (.undefinedPass k))

/-! ## Host port -/

/-- A host write of W, H, DEPTH, CTYPE, ILACE in IDLE keeps the low bits of the register's width and changes nothing else; of
PAL_LEN and IN_LEN it takes values up to the limit and refuses those above; a write of a read-only register or of a number
above 20 has no effect (10_state.md R31, R32, R35). -/
def Obligations.HostWritesRegistersInIdle : Prop :=
  ∀ (s : State) (n v : Nat) (rest : List HostOp), s.resetIn = none → s.run = .idle → s.host = .writeReg n v :: rest →
    (n = 6 → ∃ x, step s = .next { s with host := rest, width := x } ∧ x.toNat = v % 2 ^ 32) ∧
    (n = 7 → ∃ x, step s = .next { s with host := rest, height := x } ∧ x.toNat = v % 2 ^ 32) ∧
    (n = 8 → ∃ x, step s = .next { s with host := rest, depth := x } ∧ x.toNat = v % 2 ^ 8) ∧
    (n = 9 → ∃ x, step s = .next { s with host := rest, ctype := x } ∧ x.toNat = v % 2 ^ 8) ∧
    (n = 10 → ∃ x, step s = .next { s with host := rest, ilace := x } ∧ x.toNat = v % 2 ^ 8) ∧
    (n = 11 → v ≤ 256 → v ≤ s.params.palEntries → ∃ x, step s = .next { s with host := rest, palLen := x } ∧ x.toNat = v) ∧
    (n = 11 → 256 < v ∨ s.params.palEntries < v → step s = .refused (.palLenTooLarge v)) ∧
    (n = 12 → fits s.params.inCapacity v = true → step s = .next { s with host := rest, inLen := v }) ∧
    (n = 12 → fits s.params.inCapacity v = false → step s = .refused (.inLenTooLarge v)) ∧
    (1 ≤ n ∧ n ≤ 5 ∨ 13 ≤ n → step s = .next { s with host := rest })

/-- A host read while no command runs answers the register's value and changes nothing else: 0 for `CTRL` and for a number
above 20, the numbers of rule R35 otherwise (10_state.md R34, R35, R36). -/
def Obligations.HostReadsRegisters : Prop :=
  ∀ (s : State) (n : Nat) (rest : List HostOp), s.resetIn = none → s.run ≠ .run → s.host = .readReg n :: rest →
    ∃ v, step s = .next { s with host := rest, hostData := v } ∧
      (n = 0 ∨ 20 < n → v = 0) ∧ (n = 1 → v = match s.run with | .idle => 0 | .run => 1 | .done => 2 | .fault => 3) ∧
      (n = 2 → v = s.err.toNat) ∧ (n = 3 → v = s.errInfo.toNat) ∧ (n = 4 → v = s.errCur) ∧ (n = 5 → v = s.warn.toNat) ∧
      (n = 6 → v = s.width.toNat) ∧ (n = 7 → v = s.height.toNat) ∧ (n = 8 → v = s.depth.toNat) ∧
      (n = 9 → v = s.ctype.toNat) ∧ (n = 10 → v = s.ilace.toNat) ∧ (n = 11 → v = s.palLen.toNat) ∧ (n = 12 → v = s.inLen) ∧
      (n = 13 → v = s.cur) ∧ (n = 14 → v = s.outLen) ∧ (n = 15 → v = s.pass.toNat) ∧ (n = 16 → v = s.pw.toNat) ∧
      (n = 17 → v = s.ph.toNat) ∧ (n = 18 → v = s.py.toNat) ∧ (n = 19 → v = s.px.toNat) ∧ (n = 20 → v = s.ft.toNat)

/-- Host writes to memory in IDLE: the unit is written, every other address of the space and everything else is unchanged; an
address outside the space is refused (20_memory.md R60, R71, 10_state.md R36, 93_implementation_defined.md U7). -/
def Obligations.HostWritesMemoryInIdle : Prop :=
  ∀ (s : State) (a : Nat) (rest : List HostOp), s.resetIn = none → s.run = .idle →
    (∀ v, s.host = .writeIn a v :: rest →
      (fits s.params.inCapacity (a + 1) = true → ∃ m, step s = .next { s with host := rest, input := m } ∧
        ∀ b, memRead m b = if b = a then some v else memRead s.input b) ∧
      (fits s.params.inCapacity (a + 1) = false → step s = .refused (.hostOutsideSpace .input a))) ∧
    (∀ v, s.host = .writePal a v :: rest →
      (a < s.params.palEntries → a < 256 → ∃ m, step s = .next { s with host := rest, pal := m } ∧
        ∀ b, memRead m b = if b = a then some v else memRead s.pal b) ∧
      (s.params.palEntries ≤ a ∨ 256 ≤ a → step s = .refused (.hostOutsideSpace .pal a))) ∧
    (∀ v, s.host = .writeFb a v :: rest →
      (fits s.params.fbCapacity (a + 1) = true → ∃ m, step s = .next { s with host := rest, fb := m } ∧
        ∀ b, memRead m b = if b = a then some v else memRead s.fb b) ∧
      (fits s.params.fbCapacity (a + 1) = false → step s = .refused (.hostOutsideSpace .fb a)))

/-- While STATE is DONE or FAULT every host write but one to `CTRL` is refused (10_state.md R36, 93_implementation_defined.md
U8). -/
def Obligations.HostWritesRefusedOutsideIdle : Prop :=
  ∀ (s : State) (op : HostOp) (rest : List HostOp), s.resetIn = none → s.run = .done ∨ s.run = .fault → s.host = op :: rest →
    (∃ n v, op = .writeReg n v ∧ n ≠ 0) ∨ (∃ a v, op = .writeIn a v) ∨ (∃ a v, op = .writePal a v) ∨
      (∃ a v, op = .writeFb a v) →
    step s = .refused .writeNotIdle

/-- A host read of a memory location while no command runs: the last value written, nothing else changed; a location that holds
no value is stuck (20_memory.md R60, R71, R79, 93_implementation_defined.md U2). -/
def Obligations.HostReadsMemory : Prop :=
  ∀ (s : State) (a : Nat) (rest : List HostOp), s.resetIn = none → s.run ≠ .run →
    (s.host = .read .fb a :: rest → fits s.params.fbCapacity (a + 1) = true →
      (∀ p, memRead s.fb a = some p → step s = .next { s with host := rest, hostData := p.toNat }) ∧
      (memRead s.fb a = none → step s = .fault (.noValue .fb a))) ∧
    (s.host = .read .out a :: rest → fits s.params.outCapacity (a + 1) = true →
      (∀ b, memRead s.out a = some b → step s = .next { s with host := rest, hostData := b.toNat }) ∧
      (memRead s.out a = none → step s = .fault (.noValue .out a))) ∧
    (s.host = .read .input a :: rest → fits s.params.inCapacity (a + 1) = true →
      (∀ b, memRead s.input a = some b → step s = .next { s with host := rest, hostData := b.toNat }) ∧
      (memRead s.input a = none → step s = .fault (.noValue .input a))) ∧
    (s.host = .read .pal a :: rest → a < s.params.palEntries → a < 256 →
      (∀ e, memRead s.pal a = some e → step s = .next { s with host := rest, hostData := e.toNat }) ∧
      (memRead s.pal a = none → step s = .fault (.noValue .pal a)))

/-! ## Invariants and whole-machine rules -/

/-- The reset state meets the four invariants below. -/
def Obligations.ResetMeetsInvariants : Prop :=
  memoryWf State.reset = true ∧ FaultRecordOk State.reset ∧ RunningOk State.reset ∧ IdleOk State.reset

/-- Every step keeps the canonical form of the four memories. -/
def Obligations.StepKeepsMemoryCanonical : Prop :=
  ∀ s t : State, memoryWf s = true → step s = .next t → memoryWf t = true

/-- Every step keeps the fault record 0 outside FAULT, ERR a code of the table in FAULT, and WARN's reserved bits 0
(10_state.md R25, R26, 60_exceptions.md R240). -/
def Obligations.StepKeepsFaultRecord : Prop :=
  ∀ s t : State, FaultRecordOk s → step s = .next t → FaultRecordOk t

/-- Every step keeps CUR, WARN and OUT_LEN 0 in IDLE (10_state.md R22, R26, R33, R38, 44_commands.md R225). -/
def Obligations.StepKeepsIdleCleared : Prop :=
  ∀ s t : State, IdleOk s → step s = .next t → IdleOk t

/-- Every step keeps the invariant of a running decode: the configuration stays checked, FB stays filled, and the position
registers describe a row of a pass that is not empty (10_state.md R23, 43_interlace_sequencer.md R207). -/
def Obligations.StepKeepsRunningDecode : Prop :=
  ∀ s t : State, RunningOk s → step s = .next t → RunningOk t

/-- A running decode whose host has met its obligations never stops without a next state: no read of a location that holds no
value, no store outside FB, no refusal (20_memory.md R73, R79, 70_reset_and_hazards.md R282, R283). -/
def Obligations.RunningDecodeNeverStuck : Prop :=
  ∀ s : State, s.run = .run → RunningOk s → StreamWritten s → PaletteWritten s → ∃ t, step s = .next t

/-- A running decode ends in DONE or FAULT after at most seven times H records (43_interlace_sequencer.md R211,
70_reset_and_hazards.md R284). -/
def Obligations.DecodeTerminates : Prop :=
  ∀ s : State, s.run = .run → s.resetIn = none → RunningOk s → StreamWritten s → PaletteWritten s →
    ∃ n t, n ≤ 7 * s.height.toNat ∧ stepN n s = .next t ∧ (t.run = .done ∨ t.run = .fault)

/-- While a command runs, no step but reset writes the configuration, IN, PAL, OUT or OUT_LEN, clears a warning, or takes a host
move; CUR moves past the record where the step does not fault and stays where it does; FB at or above `W * H` is untouched
(10_state.md R22, R26, R36, 20_memory.md R60, R78, 60_exceptions.md R253). -/
def Obligations.RunningStepLeavesInputsAlone : Prop :=
  ∀ s t : State, s.run = .run → s.resetIn = none → RunningOk s → step s = .next t →
    t.width = s.width ∧ t.height = s.height ∧ t.depth = s.depth ∧ t.ctype = s.ctype ∧ t.ilace = s.ilace ∧
    t.palLen = s.palLen ∧ t.inLen = s.inLen ∧ t.outLen = s.outLen ∧ t.pal = s.pal ∧ t.input = s.input ∧ t.out = s.out ∧
    t.host = s.host ∧ (s.warn.getLsbD 0 = true → t.warn.getLsbD 0 = true) ∧
    (t.run ≠ .fault → t.cur = s.cur + 1 + rowBytes s) ∧ (t.run = .fault → t.cur = s.cur ∧ t.errCur = s.cur) ∧
    ∀ a, area s ≤ a → memRead t.fb a = memRead s.fb a

/-- Nothing ever changes the parameters. -/
def Obligations.ParametersNeverChange : Prop :=
  ∀ s t : State, step s = .next t → t.params = s.params

/-- The transitions of STATE, where reset is not taken: DONE and FAULT are left only for IDLE, by a write of C.CLEAR; RUN is
entered only from IDLE, by a write of C.DECODE (10_state.md R24, 60_exceptions.md R254). -/
def Obligations.StateTransitions : Prop :=
  ∀ s t : State, s.resetIn ≠ some 0 → step s = .next t →
    ((s.run = .done ∨ s.run = .fault) → t.run = s.run ∨
      (t.run = .idle ∧ ∃ v rest, s.host = .writeReg 0 v :: rest ∧ v % 256 = 3)) ∧
    (t.run = .run → s.run = .run ∨ (s.run = .idle ∧ ∃ v rest, s.host = .writeReg 0 v :: rest ∧ v % 256 = 1)) ∧
    (s.run = .run → t.run = .run ∨ t.run = .done ∨ t.run = .fault)

/-- A decode of a colour type without ALPHA that ends in DONE has written every pixel of the image, whatever the interlace
method and the pass table: every one of them is opaque, and the zero fill is not (42_scanline_reconstructor.md R169,
43_interlace_sequencer.md R209). -/
def Obligations.DecodeWithoutAlphaIsOpaque : Prop :=
  ∀ (s v t : State) (n : Nat), s.run = .idle → s.resetIn = none → s.host = [] → tableOk s.params.passTable = true →
    ctAlpha s.ctype = false → exec .cDecode s = .next v → stepN n v = .next t → t.run = .done →
    ∀ a < area s, ∃ p, memRead t.fb a = some p ∧ lane p 3 = 0xFF

/-- The forward Sub filter and a decode of its output give the image back, word for word, whatever its alpha lanes
(44_commands.md R227). -/
def Obligations.EncodeThenDecodeGivesImageBack : Prop :=
  ∀ s t u : State, s.run = .idle → exec .cEncsub s = .next t → t.run = .done →
    u.run = .idle → u.resetIn = none → u.width = s.width → u.height = s.height → u.depth = 8 → u.ctype = 6 → u.ilace = 0 →
    fits u.params.fbCapacity (area s) = true → u.inLen = t.outLen →
    (∀ a < t.outLen, memRead u.input a = memRead t.out a) →
    ∃ v w, exec .cDecode u = .next v ∧ stepN s.height.toNat v = .next w ∧ w.run = .done ∧ w.cur = t.outLen ∧ w.warn = 0 ∧
      ∀ a < area s, memRead w.fb a = memRead s.fb a

/-- The outcome of C.DECODE is a function of the configuration, the palette, the stream and the parameters, and of nothing else:
two machines that agree on those go through the same STATE, step for step, and end with the same image, CUR and WARN, or with
the same fault record at the same position (44_commands.md R224). -/
def Obligations.DecodeDependsOnCallOnly : Prop :=
  ∀ s u v w : State, s.run = .idle → u.run = .idle → s.resetIn = none → u.resetIn = none → s.host = [] → u.host = [] →
    s.params = u.params → tableOk s.params.passTable = true →
    s.width = u.width → s.height = u.height → s.depth = u.depth → s.ctype = u.ctype → s.ilace = u.ilace →
    s.palLen = u.palLen → s.inLen = u.inLen → StreamWritten s → PaletteWritten s →
    (∀ i < s.palLen.toNat, memRead s.pal i = memRead u.pal i) → (∀ a < s.inLen, memRead s.input a = memRead u.input a) →
    exec .cDecode s = .next v → exec .cDecode u = .next w →
    ∀ n, ∃ v' w', stepN n v = .next v' ∧ stepN n w = .next w' ∧ v'.run = w'.run ∧
      (v'.run = .done → v'.cur = w'.cur ∧ v'.warn = w'.warn ∧ ∀ a < area s, memRead v'.fb a = memRead w'.fb a) ∧
      (v'.run = .fault → v'.err = w'.err ∧ v'.errInfo = w'.errInfo ∧ v'.errCur = w'.errCur ∧ v'.pass = w'.pass ∧
        v'.py = w'.py ∧ v'.px = w'.px)
end

