-- ==== Sys2Proof/Laws/Geometry.lean ====
section
/-! SUPPORT. The laws of passes: which coordinates a pass has, and where its pixels stand in FB. -/

namespace Sys2Proof.Machine

theorem strideOk_pos {d : Nat} (h : strideOk d = true) : 0 < d := by
  simp only [strideOk, Bool.or_eq_true, beq_iff_eq] at h
  omega

/-- What a well-formed pass table says of each pass, the single pass 0 among them. -/
theorem tableOk_geometry {t : PassTable} (h : tableOk t = true) {k : Nat} (hk : k ≤ 7) :
    geometryOk (geometryOf t k) = true := by
  simp only [tableOk, Bool.and_eq_true, List.all_cons, List.all_nil] at h
  obtain ⟨⟨h1, h2, h3, h4, h5, h6, h7, -⟩, -⟩ := h
  interval_cases k <;> first | assumption | rfl

theorem geometryOk_pos {g : Geometry} (h : geometryOk g = true) : 0 < g.sx ∧ 0 < g.sy ∧ g.x0 < g.sx ∧ g.y0 < g.sy := by
  simp only [geometryOk, Bool.and_eq_true, decide_eq_true_eq] at h
  exact ⟨strideOk_pos h.1.1.1, strideOk_pos h.1.1.2, h.1.2, h.2⟩

/-- A coordinate is in a pass exactly where its full-image coordinate is in the image (43_interlace_sequencer.md R202). -/
theorem lt_axisCount {n o d x : Nat} (hd : 0 < d) : x < axisCount n o d ↔ o + x * d < n := by
  unfold axisCount ceilDiv
  split
  · rw [Nat.lt_iff_add_one_le, Nat.le_div_iff_mul_le hd, Nat.add_mul]
    omega
  · constructor
    · omega
    · intro h
      have : o ≤ o + x * d := Nat.le_add_right _ _
      omega

theorem axisCount_le {n o d : Nat} (hd : 0 < d) : axisCount n o d ≤ n := by
  by_contra h
  have h1 := (lt_axisCount (o := o) hd).1 (Nat.lt_of_not_le h)
  have h2 : n ≤ n * d := Nat.le_mul_of_pos_right n hd
  omega

theorem passWidth_le {t : PassTable} (h : tableOk t = true) {k : Nat} (hk : k ≤ 7) (w : Nat) : passWidth t k w ≤ w :=
  axisCount_le (geometryOk_pos (tableOk_geometry h hk)).1

theorem passHeight_le {t : PassTable} (h : tableOk t = true) {k : Nat} (hk : k ≤ 7) (n : Nat) : passHeight t k n ≤ n :=
  axisCount_le (geometryOk_pos (tableOk_geometry h hk)).2.1

theorem linAddr_lt {w h px py : Nat} (hx : px < w) (hy : py < h) : py * w + px < w * h := by
  have h1 : (py + 1) * w ≤ h * w := Nat.mul_le_mul_right w hy
  rw [Nat.add_mul, Nat.one_mul, Nat.mul_comm h w] at h1
  omega

theorem linAddr_inj {w px py qx qy : Nat} (hp : px < w) (hq : qx < w) (h : py * w + px = qy * w + qx) :
    px = qx ∧ py = qy := by
  have hw : 0 < w := by omega
  have h1 : (py * w + px) % w = (qy * w + qx) % w := by rw [h]
  have h2 : (py * w + px) / w = (qy * w + qx) / w := by rw [h]
  rw [Nat.mul_comm py, Nat.mul_comm qy, Nat.mul_add_mod, Nat.mul_add_mod, Nat.mod_eq_of_lt hp, Nat.mod_eq_of_lt hq] at h1
  rw [Nat.mul_comm py, Nat.mul_comm qy, Nat.mul_add_div hw, Nat.mul_add_div hw, Nat.div_eq_of_lt hp,
    Nat.div_eq_of_lt hq] at h2
  exact ⟨h1, by omega⟩

/-- The address of an in-range pixel of a pass is in FB (20_memory.md R73). -/
theorem lin_lt {s : State} {x y : Nat} (hx : x < passWidth s.params.passTable s.pass.toNat s.width.toNat)
    (hy : y < passHeight s.params.passTable s.pass.toNat s.height.toNat)
    (ht : tableOk s.params.passTable = true) : lin s x y < area s := by
  have hk : s.pass.toNat ≤ 7 := by have := s.pass.isLt; omega
  obtain ⟨h1, h2, -, -⟩ := geometryOk_pos (tableOk_geometry ht hk)
  exact linAddr_lt ((lt_axisCount h1).1 hx) ((lt_axisCount h2).1 hy)

/-- Different pixels of a pass stand at different addresses (43_interlace_sequencer.md R203). -/
theorem lin_inj {s : State} {x y x' y' : Nat} (hx : x < passWidth s.params.passTable s.pass.toNat s.width.toNat)
    (hx' : x' < passWidth s.params.passTable s.pass.toNat s.width.toNat)
    (ht : tableOk s.params.passTable = true) (h : lin s x y = lin s x' y') : x = x' ∧ y = y' := by
  have hk : s.pass.toNat ≤ 7 := by have := s.pass.isLt; omega
  obtain ⟨h1, h2, -, -⟩ := geometryOk_pos (tableOk_geometry ht hk)
  obtain ⟨h3, h4⟩ := linAddr_inj ((lt_axisCount h1).1 hx) ((lt_axisCount h1).1 hx') h
  exact ⟨Nat.eq_of_mul_eq_mul_right h1 (Nat.add_left_cancel h3), Nat.eq_of_mul_eq_mul_right h2 (Nat.add_left_cancel h4)⟩

end Sys2Proof.Machine
end

