-- ==== Sys2Proof/Laws/Lanes.lean ====
section
/-! SUPPORT. The laws of packed pixels: a lane of a packed pixel, a pixel as its four lanes, and the lanes of each PAU
operation. -/

namespace Sys2Proof.Machine

theorem toNat_lane (p : Pixel) (l : Nat) : (lane p l).toNat = p.toNat / 2 ^ (8 * (3 - l)) % 256 := by
  simp [lane, BitVec.extractLsb'_toNat, Nat.shiftRight_eq_div_pow]

theorem toNat_pack (r g b a : Byte) :
    (pack r g b a).toNat = r.toNat * 2 ^ 24 + g.toNat * 2 ^ 16 + b.toNat * 2 ^ 8 + a.toNat := by
  have hg := g.isLt
  have hb := b.isLt
  have ha := a.isLt
  unfold pack
  rw [BitVec.toNat_append, BitVec.toNat_append, BitVec.toNat_append, ← Nat.shiftLeft_add_eq_or_of_lt ha,
    ← Nat.shiftLeft_add_eq_or_of_lt hb, ← Nat.shiftLeft_add_eq_or_of_lt hg]
  simp only [Nat.shiftLeft_eq]
  omega

@[simp] theorem lane_pack_red (r g b a : Byte) : lane (pack r g b a) 0 = r := by
  apply BitVec.eq_of_toNat_eq
  rw [toNat_lane, toNat_pack]
  have := r.isLt; have := g.isLt; have := b.isLt; have := a.isLt
  norm_num
  omega

@[simp] theorem lane_pack_green (r g b a : Byte) : lane (pack r g b a) 1 = g := by
  apply BitVec.eq_of_toNat_eq
  rw [toNat_lane, toNat_pack]
  have := r.isLt; have := g.isLt; have := b.isLt; have := a.isLt
  norm_num
  omega

@[simp] theorem lane_pack_blue (r g b a : Byte) : lane (pack r g b a) 2 = b := by
  apply BitVec.eq_of_toNat_eq
  rw [toNat_lane, toNat_pack]
  have := r.isLt; have := g.isLt; have := b.isLt; have := a.isLt
  norm_num
  omega

@[simp] theorem lane_pack_alpha (r g b a : Byte) : lane (pack r g b a) 3 = a := by
  apply BitVec.eq_of_toNat_eq
  rw [toNat_lane, toNat_pack]
  have := r.isLt; have := g.isLt; have := b.isLt; have := a.isLt
  norm_num
  omega

/-- A pixel is the pack of its four lanes. -/
theorem pack_lanes (p : Pixel) : pack (lane p 0) (lane p 1) (lane p 2) (lane p 3) = p := by
  apply BitVec.eq_of_toNat_eq
  rw [toNat_pack, toNat_lane, toNat_lane, toNat_lane, toNat_lane]
  have := p.isLt
  norm_num
  omega

/-- Two pixels with the same lanes are the same. -/
theorem pixel_ext {p q : Pixel} (h : ∀ l < 4, lane p l = lane q l) : p = q := by
  rw [← pack_lanes p, ← pack_lanes q, h 0 (by omega), h 1 (by omega), h 2 (by omega), h 3 (by omega)]

/-- Each lane of a two-operand operation depends on that lane of the operands only (40_pixel_arithmetic.md R120). -/
theorem lane_lanes2 (op : Byte → Byte → Byte) (p q : Pixel) {l : Nat} (h : l < 4) :
    lane (lanes2 op p q) l = op (lane p l) (lane q l) := by
  interval_cases l <;> simp [lanes2]

/-- Each lane of a three-operand operation depends on that lane of the operands only (40_pixel_arithmetic.md R120). -/
theorem lane_lanes3 (op : Byte → Byte → Byte → Byte) (a b c : Pixel) {l : Nat} (h : l < 4) :
    lane (lanes3 op a b c) l = op (lane a l) (lane b l) (lane c l) := by
  interval_cases l <;> simp [lanes3]

/-- Adding back what was subtracted gives the lane back. -/
theorem addLane_subLane (x y : Byte) : addLane (subLane x y) y = x := by
  apply BitVec.eq_of_toNat_eq
  simp only [addLane, subLane, BitVec.toNat_ofNat, BitVec.toNat_ofInt]
  have := x.isLt; have := y.isLt
  omega

end Sys2Proof.Machine
end

