-- ==== Sys2Proof/Laws/Memory.lean ====
section
/-! SUPPORT. The laws of a space: what a read gives after each operation, and that each keeps the canonical form. -/

namespace Sys2Proof.Machine

variable {w : Nat}

@[simp] theorem memRead_nil (a : Nat) : memRead ([] : Cells w) a = none := rfl

theorem memRead_cons (b : Nat) (v : BitVec w) (m : Cells w) (a : Nat) :
    memRead ((b, v) :: m) a = if a = b then some v else memRead m a := rfl

/-- A read after a write: the value written at its address, every other address as before. -/
theorem memRead_memWrite (a : Nat) (v : BitVec w) (m : Cells w) (b : Nat) :
    memRead (memWrite a v m) b = if b = a then some v else memRead m b := by
  induction m with
  | nil => simp [memWrite, memRead]
  | cons c m ih =>
    obtain ⟨c, u⟩ := c
    simp only [memWrite]
    split
    · simp [memRead]
    · split
      · subst_vars
        simp only [memRead_cons]
        split <;> simp_all
      · simp only [memRead_cons, ih]
        split <;> split <;> simp_all

@[simp] theorem memRead_memWrite_same (a : Nat) (v : BitVec w) (m : Cells w) : memRead (memWrite a v m) a = some v := by
  simp [memRead_memWrite]

theorem memRead_memWrite_other {a b : Nat} (v : BitVec w) (m : Cells w) (h : b ≠ a) :
    memRead (memWrite a v m) b = memRead m b := by
  simp [memRead_memWrite, h]

theorem memRead_memNumber (vs : List (BitVec w)) (a b : Nat) :
    memRead (memNumber a vs) b = if a ≤ b then vs[b - a]? else none := by
  induction vs generalizing a with
  | nil => simp [memNumber]
  | cons v vs ih =>
    simp only [memNumber, memRead_cons, ih]
    rcases Nat.lt_trichotomy a b with h | h | h
    · have hb : b - a = (b - (a + 1)) + 1 := by omega
      rw [if_neg (by omega), if_pos (by omega), if_pos (by omega), hb, List.getElem?_cons_succ]
    · subst h; simp
    · rw [if_neg (by omega), if_neg (by omega), if_neg (by omega)]

theorem memRead_append (m n : Cells w) (a : Nat) : memRead (m ++ n) a = (memRead m a).or (memRead n a) := by
  induction m with
  | nil => simp
  | cons c m ih =>
    obtain ⟨c, u⟩ := c
    simp only [List.cons_append, memRead_cons, ih]
    split <;> simp

theorem memRead_filter_ge (m : Cells w) (n a : Nat) :
    memRead (m.filter (fun c => n ≤ c.1)) a = if n ≤ a then memRead m a else none := by
  induction m with
  | nil => simp
  | cons c m ih =>
    obtain ⟨c, u⟩ := c
    by_cases hc : n ≤ c
    · simp only [List.filter_cons, hc, decide_true, if_true, memRead_cons, ih]
      split <;> split <;> simp_all
    · simp only [List.filter_cons, hc, decide_false, memRead_cons, ih, Bool.false_eq_true, if_false]
      split <;> simp_all
      omega

/-- A read after the writes of a whole prefix: the new unit below its length, the old contents from there on. -/
theorem memRead_memStorePrefix (vs : List (BitVec w)) (m : Cells w) (a : Nat) :
    memRead (memStorePrefix vs m) a = if h : a < vs.length then some vs[a] else memRead m a := by
  rw [memStorePrefix, memRead_append, memRead_memNumber, memRead_filter_ge]
  by_cases h : a < vs.length
  · simp [h]
  · simp [h, Nat.le_of_not_lt h]

theorem memRead_map_at (f : Nat → BitVec w → BitVec w) (m : Cells w) (a : Nat) :
    memRead (m.map (fun c => (c.1, f c.1 c.2))) a = (memRead m a).map (f a) := by
  induction m with
  | nil => simp
  | cons c m ih =>
    obtain ⟨c, u⟩ := c
    simp only [List.map_cons, memRead_cons, ih]
    split <;> simp_all

/-- A read after a fault has left a range unspecified: a free value where a value was, and only below the bound. -/
theorem memRead_memUnspecify (bound : Nat) (f : Nat → BitVec w) (m : Cells w) (a : Nat) :
    memRead (memUnspecify bound f m) a = (memRead m a).map (fun v => if a < bound then f a else v) := by
  have h : memUnspecify bound f m = m.map (fun c => (c.1, (fun b v => if b < bound then f b else v) c.1 c.2)) := by
    unfold memUnspecify
    apply List.map_congr_left
    intro c _
    dsimp only
    split <;> rfl
  rw [h]
  exact memRead_map_at (fun b v => if b < bound then f b else v) m a

theorem memRead_memUnspecifyAll (f : Nat → BitVec w) (m : Cells w) (a : Nat) :
    memRead (memUnspecifyAll f m) a = (memRead m a).map (fun _ => f a) :=
  memRead_map_at (fun b _ => f b) m a

@[simp] theorem memWf_nil : memWf ([] : Cells w) = true := rfl

theorem memWf_cons (a : Nat) (v : BitVec w) (m : Cells w) :
    memWf ((a, v) :: m) = true ↔ (∀ c ∈ m, a < c.1) ∧ memWf m = true := by
  simp [memWf]

theorem mem_memWrite {a : Nat} {v : BitVec w} {m : Cells w} {c : Nat × BitVec w} (h : c ∈ memWrite a v m) :
    c = (a, v) ∨ c ∈ m := by
  induction m with
  | nil => simpa [memWrite] using h
  | cons d m ih =>
    obtain ⟨d, u⟩ := d
    simp only [memWrite] at h
    split at h
    · simpa using h
    · split at h
      · rcases List.mem_cons.1 h with h | h
        · exact .inl h
        · exact .inr (List.mem_cons_of_mem _ h)
      · rcases List.mem_cons.1 h with h | h
        · exact .inr (h ▸ List.mem_cons_self)
        · exact (ih h).imp id (List.mem_cons_of_mem _)

/-- A write keeps the canonical form. -/
theorem memWf_memWrite (a : Nat) (v : BitVec w) {m : Cells w} (h : memWf m = true) : memWf (memWrite a v m) = true := by
  induction m with
  | nil => simp [memWrite, memWf]
  | cons d m ih =>
    obtain ⟨d, u⟩ := d
    obtain ⟨hd, hm⟩ := (memWf_cons _ _ _).1 h
    simp only [memWrite]
    split
    · refine (memWf_cons _ _ _).2 ⟨fun c hc => ?_, h⟩
      rcases List.mem_cons.1 hc with rfl | hc
      · assumption
      · exact Nat.lt_trans ‹_› (hd c hc)
    · split
      · subst_vars
        exact (memWf_cons _ _ _).2 ⟨hd, hm⟩
      · refine (memWf_cons _ _ _).2 ⟨fun c hc => ?_, ih hm⟩
        rcases mem_memWrite hc with rfl | hc
        · dsimp only; omega
        · exact hd c hc

theorem mem_memNumber {vs : List (BitVec w)} {a : Nat} {c : Nat × BitVec w} (h : c ∈ memNumber a vs) :
    a ≤ c.1 ∧ c.1 < a + vs.length := by
  induction vs generalizing a with
  | nil => simp [memNumber] at h
  | cons v vs ih =>
    rcases List.mem_cons.1 h with rfl | h
    · simp
    · have := ih h
      simp only [List.length_cons]
      omega

theorem memWf_memNumber (a : Nat) (vs : List (BitVec w)) : memWf (memNumber a vs) = true := by
  induction vs generalizing a with
  | nil => rfl
  | cons v vs ih => exact (memWf_cons _ _ _).2 ⟨fun c hc => (mem_memNumber hc).1, ih _⟩

theorem memWf_append {m n : Cells w} (hm : memWf m = true) (hn : memWf n = true)
    (h : ∀ c ∈ m, ∀ d ∈ n, c.1 < d.1) : memWf (m ++ n) = true := by
  induction m with
  | nil => exact hn
  | cons c m ih =>
    obtain ⟨c, u⟩ := c
    obtain ⟨hc, hm⟩ := (memWf_cons _ _ _).1 hm
    refine (memWf_cons _ _ _).2 ⟨fun d hd => ?_, ih hm fun d hd e he => h d (List.mem_cons_of_mem _ hd) e he⟩
    rcases List.mem_append.1 hd with hd | hd
    · exact hc d hd
    · exact h _ List.mem_cons_self d hd

theorem memWf_filter (p : Nat × BitVec w → Bool) {m : Cells w} (h : memWf m = true) : memWf (m.filter p) = true := by
  induction m with
  | nil => rfl
  | cons c m ih =>
    obtain ⟨c, u⟩ := c
    obtain ⟨hc, hm⟩ := (memWf_cons _ _ _).1 h
    simp only [List.filter_cons]
    split
    · exact (memWf_cons _ _ _).2 ⟨fun d hd => hc d (List.mem_of_mem_filter hd), ih hm⟩
    · exact ih hm

/-- The writes of a whole prefix keep the canonical form. -/
theorem memWf_memStorePrefix (vs : List (BitVec w)) {m : Cells w} (h : memWf m = true) :
    memWf (memStorePrefix vs m) = true := by
  refine memWf_append (memWf_memNumber 0 vs) (memWf_filter _ h) fun c hc d hd => ?_
  have h1 := mem_memNumber hc
  have h2 := (List.mem_filter.1 hd).2
  simp only [decide_eq_true_eq] at h2
  omega

theorem memWf_map_at (f : Nat × BitVec w → Nat × BitVec w) (hf : ∀ c, (f c).1 = c.1) {m : Cells w} (h : memWf m = true) :
    memWf (m.map f) = true := by
  induction m with
  | nil => rfl
  | cons c m ih =>
    obtain ⟨c, u⟩ := c
    obtain ⟨hc, hm⟩ := (memWf_cons _ _ _).1 h
    have hfc : f (c, u) = (c, (f (c, u)).2) := Prod.ext (hf _) rfl
    rw [List.map_cons, hfc]
    refine (memWf_cons _ _ _).2 ⟨fun d hd => ?_, ih hm⟩
    obtain ⟨e, he, rfl⟩ := List.mem_map.1 hd
    rw [hf]
    exact hc e he

/-- What a fault leaves unspecified keeps the canonical form. -/
theorem memWf_memUnspecify (bound : Nat) (f : Nat → BitVec w) {m : Cells w} (h : memWf m = true) :
    memWf (memUnspecify bound f m) = true :=
  memWf_map_at (fun c => if c.1 < bound then (c.1, f c.1) else c) (fun c => by split <;> rfl) h

theorem memWf_memUnspecifyAll (f : Nat → BitVec w) {m : Cells w} (h : memWf m = true) :
    memWf (memUnspecifyAll f m) = true :=
  memWf_map_at (fun c => (c.1, f c.1)) (fun _ => rfl) h

end Sys2Proof.Machine
end

