-- ==== Sys2Proof/Laws/State.lean ====
section
/-! SUPPORT. What each named update of the state does to each field, so that no later proof unfolds an update. Fields that an
update leaves unspecified have no lemma here. -/

namespace Sys2Proof.Machine

section FreeLatches
variable (s : State)

@[simp] theorem freeLatches_params : (freeLatches s).params = s.params := rfl
@[simp] theorem freeLatches_cur : (freeLatches s).cur = s.cur := rfl
@[simp] theorem freeLatches_pass : (freeLatches s).pass = s.pass := rfl
@[simp] theorem freeLatches_pw : (freeLatches s).pw = s.pw := rfl
@[simp] theorem freeLatches_ph : (freeLatches s).ph = s.ph := rfl
@[simp] theorem freeLatches_py : (freeLatches s).py = s.py := rfl
@[simp] theorem freeLatches_px : (freeLatches s).px = s.px := rfl
@[simp] theorem freeLatches_ft : (freeLatches s).ft = s.ft := rfl
@[simp] theorem freeLatches_run : (freeLatches s).run = s.run := rfl
@[simp] theorem freeLatches_err : (freeLatches s).err = s.err := rfl
@[simp] theorem freeLatches_errInfo : (freeLatches s).errInfo = s.errInfo := rfl
@[simp] theorem freeLatches_errCur : (freeLatches s).errCur = s.errCur := rfl
@[simp] theorem freeLatches_warn : (freeLatches s).warn = s.warn := rfl
@[simp] theorem freeLatches_width : (freeLatches s).width = s.width := rfl
@[simp] theorem freeLatches_height : (freeLatches s).height = s.height := rfl
@[simp] theorem freeLatches_depth : (freeLatches s).depth = s.depth := rfl
@[simp] theorem freeLatches_ctype : (freeLatches s).ctype = s.ctype := rfl
@[simp] theorem freeLatches_ilace : (freeLatches s).ilace = s.ilace := rfl
@[simp] theorem freeLatches_palLen : (freeLatches s).palLen = s.palLen := rfl
@[simp] theorem freeLatches_inLen : (freeLatches s).inLen = s.inLen := rfl
@[simp] theorem freeLatches_outLen : (freeLatches s).outLen = s.outLen := rfl
@[simp] theorem freeLatches_pal : (freeLatches s).pal = s.pal := rfl
@[simp] theorem freeLatches_input : (freeLatches s).input = s.input := rfl
@[simp] theorem freeLatches_fb : (freeLatches s).fb = s.fb := rfl
@[simp] theorem freeLatches_out : (freeLatches s).out = s.out := rfl
@[simp] theorem freeLatches_trace : (freeLatches s).trace = s.trace := rfl
@[simp] theorem freeLatches_result : (freeLatches s).result = s.result := rfl
@[simp] theorem freeLatches_host : (freeLatches s).host = s.host := rfl
@[simp] theorem freeLatches_hostData : (freeLatches s).hostData = s.hostData := rfl
@[simp] theorem freeLatches_resetIn : (freeLatches s).resetIn = s.resetIn := rfl
@[simp] theorem freeLatches_seed : (freeLatches s).seed = s.seed + 1 := rfl

end FreeLatches

section FreeFilterType
variable (s : State)

@[simp] theorem freeFilterType_params : (freeFilterType s).params = s.params := rfl
@[simp] theorem freeFilterType_latches : (freeFilterType s).latches = s.latches := rfl
@[simp] theorem freeFilterType_cur : (freeFilterType s).cur = s.cur := rfl
@[simp] theorem freeFilterType_pass : (freeFilterType s).pass = s.pass := rfl
@[simp] theorem freeFilterType_pw : (freeFilterType s).pw = s.pw := rfl
@[simp] theorem freeFilterType_ph : (freeFilterType s).ph = s.ph := rfl
@[simp] theorem freeFilterType_py : (freeFilterType s).py = s.py := rfl
@[simp] theorem freeFilterType_px : (freeFilterType s).px = s.px := rfl
@[simp] theorem freeFilterType_run : (freeFilterType s).run = s.run := rfl
@[simp] theorem freeFilterType_err : (freeFilterType s).err = s.err := rfl
@[simp] theorem freeFilterType_errInfo : (freeFilterType s).errInfo = s.errInfo := rfl
@[simp] theorem freeFilterType_errCur : (freeFilterType s).errCur = s.errCur := rfl
@[simp] theorem freeFilterType_warn : (freeFilterType s).warn = s.warn := rfl
@[simp] theorem freeFilterType_width : (freeFilterType s).width = s.width := rfl
@[simp] theorem freeFilterType_height : (freeFilterType s).height = s.height := rfl
@[simp] theorem freeFilterType_depth : (freeFilterType s).depth = s.depth := rfl
@[simp] theorem freeFilterType_ctype : (freeFilterType s).ctype = s.ctype := rfl
@[simp] theorem freeFilterType_ilace : (freeFilterType s).ilace = s.ilace := rfl
@[simp] theorem freeFilterType_palLen : (freeFilterType s).palLen = s.palLen := rfl
@[simp] theorem freeFilterType_inLen : (freeFilterType s).inLen = s.inLen := rfl
@[simp] theorem freeFilterType_outLen : (freeFilterType s).outLen = s.outLen := rfl
@[simp] theorem freeFilterType_pal : (freeFilterType s).pal = s.pal := rfl
@[simp] theorem freeFilterType_input : (freeFilterType s).input = s.input := rfl
@[simp] theorem freeFilterType_fb : (freeFilterType s).fb = s.fb := rfl
@[simp] theorem freeFilterType_out : (freeFilterType s).out = s.out := rfl
@[simp] theorem freeFilterType_trace : (freeFilterType s).trace = s.trace := rfl
@[simp] theorem freeFilterType_result : (freeFilterType s).result = s.result := rfl
@[simp] theorem freeFilterType_host : (freeFilterType s).host = s.host := rfl
@[simp] theorem freeFilterType_hostData : (freeFilterType s).hostData = s.hostData := rfl
@[simp] theorem freeFilterType_resetIn : (freeFilterType s).resetIn = s.resetIn := rfl
@[simp] theorem freeFilterType_seed : (freeFilterType s).seed = s.seed + 1 := rfl

end FreeFilterType

section FreeDims
variable (s : State)

@[simp] theorem freeDims_params : (freeDims s).params = s.params := rfl
@[simp] theorem freeDims_latches : (freeDims s).latches = s.latches := rfl
@[simp] theorem freeDims_cur : (freeDims s).cur = s.cur := rfl
@[simp] theorem freeDims_pass : (freeDims s).pass = s.pass := rfl
@[simp] theorem freeDims_py : (freeDims s).py = s.py := rfl
@[simp] theorem freeDims_px : (freeDims s).px = s.px := rfl
@[simp] theorem freeDims_run : (freeDims s).run = s.run := rfl
@[simp] theorem freeDims_err : (freeDims s).err = s.err := rfl
@[simp] theorem freeDims_errInfo : (freeDims s).errInfo = s.errInfo := rfl
@[simp] theorem freeDims_errCur : (freeDims s).errCur = s.errCur := rfl
@[simp] theorem freeDims_warn : (freeDims s).warn = s.warn := rfl
@[simp] theorem freeDims_width : (freeDims s).width = s.width := rfl
@[simp] theorem freeDims_height : (freeDims s).height = s.height := rfl
@[simp] theorem freeDims_depth : (freeDims s).depth = s.depth := rfl
@[simp] theorem freeDims_ctype : (freeDims s).ctype = s.ctype := rfl
@[simp] theorem freeDims_ilace : (freeDims s).ilace = s.ilace := rfl
@[simp] theorem freeDims_palLen : (freeDims s).palLen = s.palLen := rfl
@[simp] theorem freeDims_inLen : (freeDims s).inLen = s.inLen := rfl
@[simp] theorem freeDims_outLen : (freeDims s).outLen = s.outLen := rfl
@[simp] theorem freeDims_pal : (freeDims s).pal = s.pal := rfl
@[simp] theorem freeDims_input : (freeDims s).input = s.input := rfl
@[simp] theorem freeDims_fb : (freeDims s).fb = s.fb := rfl
@[simp] theorem freeDims_out : (freeDims s).out = s.out := rfl
@[simp] theorem freeDims_trace : (freeDims s).trace = s.trace := rfl
@[simp] theorem freeDims_result : (freeDims s).result = s.result := rfl
@[simp] theorem freeDims_host : (freeDims s).host = s.host := rfl
@[simp] theorem freeDims_hostData : (freeDims s).hostData = s.hostData := rfl
@[simp] theorem freeDims_resetIn : (freeDims s).resetIn = s.resetIn := rfl
@[simp] theorem freeDims_seed : (freeDims s).seed = s.seed + 1 := rfl

end FreeDims

section FreePosition
variable (s : State)

@[simp] theorem freePosition_params : (freePosition s).params = s.params := rfl
@[simp] theorem freePosition_latches : (freePosition s).latches = s.latches := rfl
@[simp] theorem freePosition_cur : (freePosition s).cur = s.cur := rfl
@[simp] theorem freePosition_run : (freePosition s).run = s.run := rfl
@[simp] theorem freePosition_err : (freePosition s).err = s.err := rfl
@[simp] theorem freePosition_errInfo : (freePosition s).errInfo = s.errInfo := rfl
@[simp] theorem freePosition_errCur : (freePosition s).errCur = s.errCur := rfl
@[simp] theorem freePosition_warn : (freePosition s).warn = s.warn := rfl
@[simp] theorem freePosition_width : (freePosition s).width = s.width := rfl
@[simp] theorem freePosition_height : (freePosition s).height = s.height := rfl
@[simp] theorem freePosition_depth : (freePosition s).depth = s.depth := rfl
@[simp] theorem freePosition_ctype : (freePosition s).ctype = s.ctype := rfl
@[simp] theorem freePosition_ilace : (freePosition s).ilace = s.ilace := rfl
@[simp] theorem freePosition_palLen : (freePosition s).palLen = s.palLen := rfl
@[simp] theorem freePosition_inLen : (freePosition s).inLen = s.inLen := rfl
@[simp] theorem freePosition_outLen : (freePosition s).outLen = s.outLen := rfl
@[simp] theorem freePosition_pal : (freePosition s).pal = s.pal := rfl
@[simp] theorem freePosition_input : (freePosition s).input = s.input := rfl
@[simp] theorem freePosition_fb : (freePosition s).fb = s.fb := rfl
@[simp] theorem freePosition_out : (freePosition s).out = s.out := rfl
@[simp] theorem freePosition_trace : (freePosition s).trace = s.trace := rfl
@[simp] theorem freePosition_result : (freePosition s).result = s.result := rfl
@[simp] theorem freePosition_host : (freePosition s).host = s.host := rfl
@[simp] theorem freePosition_hostData : (freePosition s).hostData = s.hostData := rfl
@[simp] theorem freePosition_resetIn : (freePosition s).resetIn = s.resetIn := rfl
@[simp] theorem freePosition_seed : (freePosition s).seed = s.seed + 1 := rfl

end FreePosition

section TakeFault
variable (c : Running) (e : Exc) (info : BitVec 32) (s : State)

@[simp] theorem takeFault_params : (takeFault c e info s).params = s.params := by cases c <;> rfl
@[simp] theorem takeFault_cur : (takeFault c e info s).cur = s.cur := by cases c <;> rfl
@[simp] theorem takeFault_pass : (takeFault c e info s).pass = s.pass := by cases c <;> rfl
@[simp] theorem takeFault_pw : (takeFault c e info s).pw = s.pw := by cases c <;> rfl
@[simp] theorem takeFault_ph : (takeFault c e info s).ph = s.ph := by cases c <;> rfl
@[simp] theorem takeFault_py : (takeFault c e info s).py = s.py := by cases c <;> rfl
@[simp] theorem takeFault_px : (takeFault c e info s).px = s.px := by cases c <;> rfl
@[simp] theorem takeFault_ft : (takeFault c e info s).ft = s.ft := by cases c <;> rfl
@[simp] theorem takeFault_run : (takeFault c e info s).run = .fault := by cases c <;> rfl
@[simp] theorem takeFault_err : (takeFault c e info s).err = excCode e := by cases c <;> rfl
@[simp] theorem takeFault_errInfo : (takeFault c e info s).errInfo = info := by cases c <;> rfl
@[simp] theorem takeFault_errCur : (takeFault c e info s).errCur = s.cur := by cases c <;> rfl
@[simp] theorem takeFault_warn : (takeFault c e info s).warn = s.warn := by cases c <;> rfl
@[simp] theorem takeFault_width : (takeFault c e info s).width = s.width := by cases c <;> rfl
@[simp] theorem takeFault_height : (takeFault c e info s).height = s.height := by cases c <;> rfl
@[simp] theorem takeFault_depth : (takeFault c e info s).depth = s.depth := by cases c <;> rfl
@[simp] theorem takeFault_ctype : (takeFault c e info s).ctype = s.ctype := by cases c <;> rfl
@[simp] theorem takeFault_ilace : (takeFault c e info s).ilace = s.ilace := by cases c <;> rfl
@[simp] theorem takeFault_palLen : (takeFault c e info s).palLen = s.palLen := by cases c <;> rfl
@[simp] theorem takeFault_inLen : (takeFault c e info s).inLen = s.inLen := by cases c <;> rfl
@[simp] theorem takeFault_outLen : (takeFault c e info s).outLen = s.outLen := by cases c <;> rfl
@[simp] theorem takeFault_pal : (takeFault c e info s).pal = s.pal := by cases c <;> rfl
@[simp] theorem takeFault_input : (takeFault c e info s).input = s.input := by cases c <;> rfl
@[simp] theorem takeFault_trace : (takeFault c e info s).trace = s.trace ++ [.fault (excCode e) info s.cur] := by cases c <;> rfl
@[simp] theorem takeFault_result : (takeFault c e info s).result = s.result := by cases c <;> rfl
@[simp] theorem takeFault_host : (takeFault c e info s).host = s.host := by cases c <;> rfl
@[simp] theorem takeFault_hostData : (takeFault c e info s).hostData = s.hostData := by cases c <;> rfl
@[simp] theorem takeFault_resetIn : (takeFault c e info s).resetIn = s.resetIn := by cases c <;> rfl
@[simp] theorem takeFault_seed : (takeFault c e info s).seed = s.seed + 2 := by cases c <;> rfl

end TakeFault

section WarnIdxFilt
variable (s : State)

@[simp] theorem warnIdxFilt_params : (warnIdxFilt s).params = s.params := rfl
@[simp] theorem warnIdxFilt_latches : (warnIdxFilt s).latches = s.latches := rfl
@[simp] theorem warnIdxFilt_cur : (warnIdxFilt s).cur = s.cur := rfl
@[simp] theorem warnIdxFilt_pass : (warnIdxFilt s).pass = s.pass := rfl
@[simp] theorem warnIdxFilt_pw : (warnIdxFilt s).pw = s.pw := rfl
@[simp] theorem warnIdxFilt_ph : (warnIdxFilt s).ph = s.ph := rfl
@[simp] theorem warnIdxFilt_py : (warnIdxFilt s).py = s.py := rfl
@[simp] theorem warnIdxFilt_px : (warnIdxFilt s).px = s.px := rfl
@[simp] theorem warnIdxFilt_ft : (warnIdxFilt s).ft = s.ft := rfl
@[simp] theorem warnIdxFilt_run : (warnIdxFilt s).run = s.run := rfl
@[simp] theorem warnIdxFilt_err : (warnIdxFilt s).err = s.err := rfl
@[simp] theorem warnIdxFilt_errInfo : (warnIdxFilt s).errInfo = s.errInfo := rfl
@[simp] theorem warnIdxFilt_errCur : (warnIdxFilt s).errCur = s.errCur := rfl
@[simp] theorem warnIdxFilt_warn : (warnIdxFilt s).warn = s.warn ||| warnIdxFiltBit := rfl
@[simp] theorem warnIdxFilt_width : (warnIdxFilt s).width = s.width := rfl
@[simp] theorem warnIdxFilt_height : (warnIdxFilt s).height = s.height := rfl
@[simp] theorem warnIdxFilt_depth : (warnIdxFilt s).depth = s.depth := rfl
@[simp] theorem warnIdxFilt_ctype : (warnIdxFilt s).ctype = s.ctype := rfl
@[simp] theorem warnIdxFilt_ilace : (warnIdxFilt s).ilace = s.ilace := rfl
@[simp] theorem warnIdxFilt_palLen : (warnIdxFilt s).palLen = s.palLen := rfl
@[simp] theorem warnIdxFilt_inLen : (warnIdxFilt s).inLen = s.inLen := rfl
@[simp] theorem warnIdxFilt_outLen : (warnIdxFilt s).outLen = s.outLen := rfl
@[simp] theorem warnIdxFilt_pal : (warnIdxFilt s).pal = s.pal := rfl
@[simp] theorem warnIdxFilt_input : (warnIdxFilt s).input = s.input := rfl
@[simp] theorem warnIdxFilt_fb : (warnIdxFilt s).fb = s.fb := rfl
@[simp] theorem warnIdxFilt_out : (warnIdxFilt s).out = s.out := rfl
@[simp] theorem warnIdxFilt_trace : (warnIdxFilt s).trace = s.trace ++ [.warnIdxFilt s.pass s.py s.ft] := rfl
@[simp] theorem warnIdxFilt_result : (warnIdxFilt s).result = s.result := rfl
@[simp] theorem warnIdxFilt_host : (warnIdxFilt s).host = s.host := rfl
@[simp] theorem warnIdxFilt_hostData : (warnIdxFilt s).hostData = s.hostData := rfl
@[simp] theorem warnIdxFilt_resetIn : (warnIdxFilt s).resetIn = s.resetIn := rfl
@[simp] theorem warnIdxFilt_seed : (warnIdxFilt s).seed = s.seed := rfl

end WarnIdxFilt

section LoadV
variable (v : Pixel) (s : State)

@[simp] theorem loadV_params : (loadV v s).params = s.params := rfl
@[simp] theorem loadV_latches : (loadV v s).latches = { s.latches with v := v } := rfl
@[simp] theorem loadV_cur : (loadV v s).cur = s.cur := rfl
@[simp] theorem loadV_pass : (loadV v s).pass = s.pass := rfl
@[simp] theorem loadV_pw : (loadV v s).pw = s.pw := rfl
@[simp] theorem loadV_ph : (loadV v s).ph = s.ph := rfl
@[simp] theorem loadV_py : (loadV v s).py = s.py := rfl
@[simp] theorem loadV_px : (loadV v s).px = s.px := rfl
@[simp] theorem loadV_ft : (loadV v s).ft = s.ft := rfl
@[simp] theorem loadV_run : (loadV v s).run = s.run := rfl
@[simp] theorem loadV_err : (loadV v s).err = s.err := rfl
@[simp] theorem loadV_errInfo : (loadV v s).errInfo = s.errInfo := rfl
@[simp] theorem loadV_errCur : (loadV v s).errCur = s.errCur := rfl
@[simp] theorem loadV_warn : (loadV v s).warn = s.warn := rfl
@[simp] theorem loadV_width : (loadV v s).width = s.width := rfl
@[simp] theorem loadV_height : (loadV v s).height = s.height := rfl
@[simp] theorem loadV_depth : (loadV v s).depth = s.depth := rfl
@[simp] theorem loadV_ctype : (loadV v s).ctype = s.ctype := rfl
@[simp] theorem loadV_ilace : (loadV v s).ilace = s.ilace := rfl
@[simp] theorem loadV_palLen : (loadV v s).palLen = s.palLen := rfl
@[simp] theorem loadV_inLen : (loadV v s).inLen = s.inLen := rfl
@[simp] theorem loadV_outLen : (loadV v s).outLen = s.outLen := rfl
@[simp] theorem loadV_pal : (loadV v s).pal = s.pal := rfl
@[simp] theorem loadV_input : (loadV v s).input = s.input := rfl
@[simp] theorem loadV_fb : (loadV v s).fb = s.fb := rfl
@[simp] theorem loadV_out : (loadV v s).out = s.out := rfl
@[simp] theorem loadV_trace : (loadV v s).trace = s.trace := rfl
@[simp] theorem loadV_result : (loadV v s).result = s.result := rfl
@[simp] theorem loadV_host : (loadV v s).host = s.host := rfl
@[simp] theorem loadV_hostData : (loadV v s).hostData = s.hostData := rfl
@[simp] theorem loadV_resetIn : (loadV v s).resetIn = s.resetIn := rfl
@[simp] theorem loadV_seed : (loadV v s).seed = s.seed := rfl

end LoadV

section SetDims
variable (k : Nat) (s : State)

@[simp] theorem setDims_params : (setDims k s).params = s.params := rfl
@[simp] theorem setDims_latches : (setDims k s).latches = s.latches := rfl
@[simp] theorem setDims_cur : (setDims k s).cur = s.cur := rfl
@[simp] theorem setDims_pass : (setDims k s).pass = s.pass := rfl
@[simp] theorem setDims_pw : (setDims k s).pw = BitVec.ofNat 32 (passWidth s.params.passTable k s.width.toNat) := rfl
@[simp] theorem setDims_ph : (setDims k s).ph = BitVec.ofNat 32 (passHeight s.params.passTable k s.height.toNat) := rfl
@[simp] theorem setDims_py : (setDims k s).py = s.py := rfl
@[simp] theorem setDims_px : (setDims k s).px = s.px := rfl
@[simp] theorem setDims_ft : (setDims k s).ft = s.ft := rfl
@[simp] theorem setDims_run : (setDims k s).run = s.run := rfl
@[simp] theorem setDims_err : (setDims k s).err = s.err := rfl
@[simp] theorem setDims_errInfo : (setDims k s).errInfo = s.errInfo := rfl
@[simp] theorem setDims_errCur : (setDims k s).errCur = s.errCur := rfl
@[simp] theorem setDims_warn : (setDims k s).warn = s.warn := rfl
@[simp] theorem setDims_width : (setDims k s).width = s.width := rfl
@[simp] theorem setDims_height : (setDims k s).height = s.height := rfl
@[simp] theorem setDims_depth : (setDims k s).depth = s.depth := rfl
@[simp] theorem setDims_ctype : (setDims k s).ctype = s.ctype := rfl
@[simp] theorem setDims_ilace : (setDims k s).ilace = s.ilace := rfl
@[simp] theorem setDims_palLen : (setDims k s).palLen = s.palLen := rfl
@[simp] theorem setDims_inLen : (setDims k s).inLen = s.inLen := rfl
@[simp] theorem setDims_outLen : (setDims k s).outLen = s.outLen := rfl
@[simp] theorem setDims_pal : (setDims k s).pal = s.pal := rfl
@[simp] theorem setDims_input : (setDims k s).input = s.input := rfl
@[simp] theorem setDims_fb : (setDims k s).fb = s.fb := rfl
@[simp] theorem setDims_out : (setDims k s).out = s.out := rfl
@[simp] theorem setDims_trace : (setDims k s).trace = s.trace := rfl
@[simp] theorem setDims_result : (setDims k s).result = s.result := rfl
@[simp] theorem setDims_host : (setDims k s).host = s.host := rfl
@[simp] theorem setDims_hostData : (setDims k s).hostData = s.hostData := rfl
@[simp] theorem setDims_resetIn : (setDims k s).resetIn = s.resetIn := rfl
@[simp] theorem setDims_seed : (setDims k s).seed = s.seed := rfl

end SetDims

section Finish
variable (s : State)

@[simp] theorem finish_params : (finish s).params = s.params := rfl
@[simp] theorem finish_cur : (finish s).cur = s.cur := rfl
@[simp] theorem finish_run : (finish s).run = .done := rfl
@[simp] theorem finish_err : (finish s).err = s.err := rfl
@[simp] theorem finish_errInfo : (finish s).errInfo = s.errInfo := rfl
@[simp] theorem finish_errCur : (finish s).errCur = s.errCur := rfl
@[simp] theorem finish_warn : (finish s).warn = s.warn := rfl
@[simp] theorem finish_width : (finish s).width = s.width := rfl
@[simp] theorem finish_height : (finish s).height = s.height := rfl
@[simp] theorem finish_depth : (finish s).depth = s.depth := rfl
@[simp] theorem finish_ctype : (finish s).ctype = s.ctype := rfl
@[simp] theorem finish_ilace : (finish s).ilace = s.ilace := rfl
@[simp] theorem finish_palLen : (finish s).palLen = s.palLen := rfl
@[simp] theorem finish_inLen : (finish s).inLen = s.inLen := rfl
@[simp] theorem finish_outLen : (finish s).outLen = s.outLen := rfl
@[simp] theorem finish_pal : (finish s).pal = s.pal := rfl
@[simp] theorem finish_input : (finish s).input = s.input := rfl
@[simp] theorem finish_fb : (finish s).fb = s.fb := rfl
@[simp] theorem finish_out : (finish s).out = s.out := rfl
@[simp] theorem finish_trace : (finish s).trace = s.trace := rfl
@[simp] theorem finish_result : (finish s).result = s.result := rfl
@[simp] theorem finish_host : (finish s).host = s.host := rfl
@[simp] theorem finish_hostData : (finish s).hostData = s.hostData := rfl
@[simp] theorem finish_resetIn : (finish s).resetIn = s.resetIn := rfl
@[simp] theorem finish_seed : (finish s).seed = s.seed + 2 := rfl

end Finish

section EndRecord
variable (rb : Nat) (s : State)

@[simp] theorem endRecord_params : (endRecord rb s).params = s.params := rfl
@[simp] theorem endRecord_cur : (endRecord rb s).cur = s.cur + 1 + rb := rfl
@[simp] theorem endRecord_pass : (endRecord rb s).pass = s.pass := rfl
@[simp] theorem endRecord_pw : (endRecord rb s).pw = s.pw := rfl
@[simp] theorem endRecord_ph : (endRecord rb s).ph = s.ph := rfl
@[simp] theorem endRecord_py : (endRecord rb s).py = s.py := rfl
@[simp] theorem endRecord_px : (endRecord rb s).px = s.px := rfl
@[simp] theorem endRecord_ft : (endRecord rb s).ft = s.ft := rfl
@[simp] theorem endRecord_run : (endRecord rb s).run = s.run := rfl
@[simp] theorem endRecord_err : (endRecord rb s).err = s.err := rfl
@[simp] theorem endRecord_errInfo : (endRecord rb s).errInfo = s.errInfo := rfl
@[simp] theorem endRecord_errCur : (endRecord rb s).errCur = s.errCur := rfl
@[simp] theorem endRecord_warn : (endRecord rb s).warn = s.warn := rfl
@[simp] theorem endRecord_width : (endRecord rb s).width = s.width := rfl
@[simp] theorem endRecord_height : (endRecord rb s).height = s.height := rfl
@[simp] theorem endRecord_depth : (endRecord rb s).depth = s.depth := rfl
@[simp] theorem endRecord_ctype : (endRecord rb s).ctype = s.ctype := rfl
@[simp] theorem endRecord_ilace : (endRecord rb s).ilace = s.ilace := rfl
@[simp] theorem endRecord_palLen : (endRecord rb s).palLen = s.palLen := rfl
@[simp] theorem endRecord_inLen : (endRecord rb s).inLen = s.inLen := rfl
@[simp] theorem endRecord_outLen : (endRecord rb s).outLen = s.outLen := rfl
@[simp] theorem endRecord_pal : (endRecord rb s).pal = s.pal := rfl
@[simp] theorem endRecord_input : (endRecord rb s).input = s.input := rfl
@[simp] theorem endRecord_fb : (endRecord rb s).fb = s.fb := rfl
@[simp] theorem endRecord_out : (endRecord rb s).out = s.out := rfl
@[simp] theorem endRecord_trace : (endRecord rb s).trace = s.trace := rfl
@[simp] theorem endRecord_result : (endRecord rb s).result = s.result := rfl
@[simp] theorem endRecord_host : (endRecord rb s).host = s.host := rfl
@[simp] theorem endRecord_hostData : (endRecord rb s).hostData = s.hostData := rfl
@[simp] theorem endRecord_resetIn : (endRecord rb s).resetIn = s.resetIn := rfl
@[simp] theorem endRecord_seed : (endRecord rb s).seed = s.seed + 1 := rfl

end EndRecord

section ZeroFill
variable (s : State)

@[simp] theorem zeroFill_params : (zeroFill s).params = s.params := rfl
@[simp] theorem zeroFill_latches : (zeroFill s).latches = s.latches := rfl
@[simp] theorem zeroFill_cur : (zeroFill s).cur = s.cur := rfl
@[simp] theorem zeroFill_pass : (zeroFill s).pass = s.pass := rfl
@[simp] theorem zeroFill_pw : (zeroFill s).pw = s.pw := rfl
@[simp] theorem zeroFill_ph : (zeroFill s).ph = s.ph := rfl
@[simp] theorem zeroFill_py : (zeroFill s).py = s.py := rfl
@[simp] theorem zeroFill_px : (zeroFill s).px = s.px := rfl
@[simp] theorem zeroFill_ft : (zeroFill s).ft = s.ft := rfl
@[simp] theorem zeroFill_run : (zeroFill s).run = s.run := rfl
@[simp] theorem zeroFill_err : (zeroFill s).err = s.err := rfl
@[simp] theorem zeroFill_errInfo : (zeroFill s).errInfo = s.errInfo := rfl
@[simp] theorem zeroFill_errCur : (zeroFill s).errCur = s.errCur := rfl
@[simp] theorem zeroFill_warn : (zeroFill s).warn = s.warn := rfl
@[simp] theorem zeroFill_width : (zeroFill s).width = s.width := rfl
@[simp] theorem zeroFill_height : (zeroFill s).height = s.height := rfl
@[simp] theorem zeroFill_depth : (zeroFill s).depth = s.depth := rfl
@[simp] theorem zeroFill_ctype : (zeroFill s).ctype = s.ctype := rfl
@[simp] theorem zeroFill_ilace : (zeroFill s).ilace = s.ilace := rfl
@[simp] theorem zeroFill_palLen : (zeroFill s).palLen = s.palLen := rfl
@[simp] theorem zeroFill_inLen : (zeroFill s).inLen = s.inLen := rfl
@[simp] theorem zeroFill_outLen : (zeroFill s).outLen = s.outLen := rfl
@[simp] theorem zeroFill_pal : (zeroFill s).pal = s.pal := rfl
@[simp] theorem zeroFill_input : (zeroFill s).input = s.input := rfl
@[simp] theorem zeroFill_fb : (zeroFill s).fb = memStorePrefix (List.replicate (area s) 0) s.fb := rfl
@[simp] theorem zeroFill_out : (zeroFill s).out = s.out := rfl
@[simp] theorem zeroFill_trace : (zeroFill s).trace = s.trace := rfl
@[simp] theorem zeroFill_result : (zeroFill s).result = s.result := rfl
@[simp] theorem zeroFill_host : (zeroFill s).host = s.host := rfl
@[simp] theorem zeroFill_hostData : (zeroFill s).hostData = s.hostData := rfl
@[simp] theorem zeroFill_resetIn : (zeroFill s).resetIn = s.resetIn := rfl
@[simp] theorem zeroFill_seed : (zeroFill s).seed = s.seed := rfl

end ZeroFill

section BeginDecode
variable (s : State)

@[simp] theorem beginDecode_params : (beginDecode s).params = s.params := rfl
@[simp] theorem beginDecode_latches : (beginDecode s).latches = s.latches := rfl
@[simp] theorem beginDecode_cur : (beginDecode s).cur = 0 := rfl
@[simp] theorem beginDecode_pass : (beginDecode s).pass = 0 := rfl
@[simp] theorem beginDecode_py : (beginDecode s).py = 0 := rfl
@[simp] theorem beginDecode_px : (beginDecode s).px = 0 := rfl
@[simp] theorem beginDecode_run : (beginDecode s).run = .run := rfl
@[simp] theorem beginDecode_err : (beginDecode s).err = 0 := rfl
@[simp] theorem beginDecode_errInfo : (beginDecode s).errInfo = 0 := rfl
@[simp] theorem beginDecode_errCur : (beginDecode s).errCur = 0 := rfl
@[simp] theorem beginDecode_warn : (beginDecode s).warn = 0 := rfl
@[simp] theorem beginDecode_width : (beginDecode s).width = s.width := rfl
@[simp] theorem beginDecode_height : (beginDecode s).height = s.height := rfl
@[simp] theorem beginDecode_depth : (beginDecode s).depth = s.depth := rfl
@[simp] theorem beginDecode_ctype : (beginDecode s).ctype = s.ctype := rfl
@[simp] theorem beginDecode_ilace : (beginDecode s).ilace = s.ilace := rfl
@[simp] theorem beginDecode_palLen : (beginDecode s).palLen = s.palLen := rfl
@[simp] theorem beginDecode_inLen : (beginDecode s).inLen = s.inLen := rfl
@[simp] theorem beginDecode_outLen : (beginDecode s).outLen = s.outLen := rfl
@[simp] theorem beginDecode_pal : (beginDecode s).pal = s.pal := rfl
@[simp] theorem beginDecode_input : (beginDecode s).input = s.input := rfl
@[simp] theorem beginDecode_fb : (beginDecode s).fb = s.fb := rfl
@[simp] theorem beginDecode_out : (beginDecode s).out = s.out := rfl
@[simp] theorem beginDecode_trace : (beginDecode s).trace = s.trace := rfl
@[simp] theorem beginDecode_result : (beginDecode s).result = s.result := rfl
@[simp] theorem beginDecode_host : (beginDecode s).host = s.host := rfl
@[simp] theorem beginDecode_hostData : (beginDecode s).hostData = s.hostData := rfl
@[simp] theorem beginDecode_resetIn : (beginDecode s).resetIn = s.resetIn := rfl
@[simp] theorem beginDecode_seed : (beginDecode s).seed = s.seed + 1 := rfl

end BeginDecode

section BeginEncode
variable (s : State)

@[simp] theorem beginEncode_params : (beginEncode s).params = s.params := rfl
@[simp] theorem beginEncode_latches : (beginEncode s).latches = s.latches := rfl
@[simp] theorem beginEncode_cur : (beginEncode s).cur = s.cur := rfl
@[simp] theorem beginEncode_pass : (beginEncode s).pass = 0 := rfl
@[simp] theorem beginEncode_py : (beginEncode s).py = 0 := rfl
@[simp] theorem beginEncode_px : (beginEncode s).px = 0 := rfl
@[simp] theorem beginEncode_run : (beginEncode s).run = .run := rfl
@[simp] theorem beginEncode_err : (beginEncode s).err = 0 := rfl
@[simp] theorem beginEncode_errInfo : (beginEncode s).errInfo = 0 := rfl
@[simp] theorem beginEncode_errCur : (beginEncode s).errCur = 0 := rfl
@[simp] theorem beginEncode_warn : (beginEncode s).warn = s.warn := rfl
@[simp] theorem beginEncode_width : (beginEncode s).width = s.width := rfl
@[simp] theorem beginEncode_height : (beginEncode s).height = s.height := rfl
@[simp] theorem beginEncode_depth : (beginEncode s).depth = s.depth := rfl
@[simp] theorem beginEncode_ctype : (beginEncode s).ctype = s.ctype := rfl
@[simp] theorem beginEncode_ilace : (beginEncode s).ilace = s.ilace := rfl
@[simp] theorem beginEncode_palLen : (beginEncode s).palLen = s.palLen := rfl
@[simp] theorem beginEncode_inLen : (beginEncode s).inLen = s.inLen := rfl
@[simp] theorem beginEncode_outLen : (beginEncode s).outLen = 0 := rfl
@[simp] theorem beginEncode_pal : (beginEncode s).pal = s.pal := rfl
@[simp] theorem beginEncode_input : (beginEncode s).input = s.input := rfl
@[simp] theorem beginEncode_fb : (beginEncode s).fb = s.fb := rfl
@[simp] theorem beginEncode_out : (beginEncode s).out = s.out := rfl
@[simp] theorem beginEncode_trace : (beginEncode s).trace = s.trace := rfl
@[simp] theorem beginEncode_result : (beginEncode s).result = s.result := rfl
@[simp] theorem beginEncode_host : (beginEncode s).host = s.host := rfl
@[simp] theorem beginEncode_hostData : (beginEncode s).hostData = s.hostData := rfl
@[simp] theorem beginEncode_resetIn : (beginEncode s).resetIn = s.resetIn := rfl
@[simp] theorem beginEncode_seed : (beginEncode s).seed = s.seed + 1 := rfl

end BeginEncode

section ClearCall
variable (s : State)

@[simp] theorem clearCall_params : (clearCall s).params = s.params := rfl
@[simp] theorem clearCall_cur : (clearCall s).cur = 0 := rfl
@[simp] theorem clearCall_run : (clearCall s).run = .idle := rfl
@[simp] theorem clearCall_err : (clearCall s).err = 0 := rfl
@[simp] theorem clearCall_errInfo : (clearCall s).errInfo = 0 := rfl
@[simp] theorem clearCall_errCur : (clearCall s).errCur = 0 := rfl
@[simp] theorem clearCall_warn : (clearCall s).warn = 0 := rfl
@[simp] theorem clearCall_width : (clearCall s).width = 0 := rfl
@[simp] theorem clearCall_height : (clearCall s).height = 0 := rfl
@[simp] theorem clearCall_depth : (clearCall s).depth = 0 := rfl
@[simp] theorem clearCall_ctype : (clearCall s).ctype = 0 := rfl
@[simp] theorem clearCall_ilace : (clearCall s).ilace = 0 := rfl
@[simp] theorem clearCall_palLen : (clearCall s).palLen = 0 := rfl
@[simp] theorem clearCall_inLen : (clearCall s).inLen = 0 := rfl
@[simp] theorem clearCall_outLen : (clearCall s).outLen = 0 := rfl
@[simp] theorem clearCall_pal : (clearCall s).pal = [] := rfl
@[simp] theorem clearCall_input : (clearCall s).input = [] := rfl
@[simp] theorem clearCall_fb : (clearCall s).fb = s.fb := rfl
@[simp] theorem clearCall_out : (clearCall s).out = s.out := rfl
@[simp] theorem clearCall_trace : (clearCall s).trace = s.trace := rfl
@[simp] theorem clearCall_result : (clearCall s).result = s.result := rfl
@[simp] theorem clearCall_host : (clearCall s).host = s.host := rfl
@[simp] theorem clearCall_hostData : (clearCall s).hostData = s.hostData := rfl
@[simp] theorem clearCall_resetIn : (clearCall s).resetIn = s.resetIn := rfl
@[simp] theorem clearCall_seed : (clearCall s).seed = s.seed + 2 := rfl

end ClearCall

section ApplyReset
variable (s : State)

@[simp] theorem applyReset_params : (applyReset s).params = s.params := rfl
@[simp] theorem applyReset_cur : (applyReset s).cur = 0 := rfl
@[simp] theorem applyReset_run : (applyReset s).run = .idle := rfl
@[simp] theorem applyReset_err : (applyReset s).err = 0 := rfl
@[simp] theorem applyReset_errInfo : (applyReset s).errInfo = 0 := rfl
@[simp] theorem applyReset_errCur : (applyReset s).errCur = 0 := rfl
@[simp] theorem applyReset_warn : (applyReset s).warn = 0 := rfl
@[simp] theorem applyReset_width : (applyReset s).width = 0 := rfl
@[simp] theorem applyReset_height : (applyReset s).height = 0 := rfl
@[simp] theorem applyReset_depth : (applyReset s).depth = 0 := rfl
@[simp] theorem applyReset_ctype : (applyReset s).ctype = 0 := rfl
@[simp] theorem applyReset_ilace : (applyReset s).ilace = 0 := rfl
@[simp] theorem applyReset_palLen : (applyReset s).palLen = 0 := rfl
@[simp] theorem applyReset_inLen : (applyReset s).inLen = 0 := rfl
@[simp] theorem applyReset_outLen : (applyReset s).outLen = 0 := rfl
@[simp] theorem applyReset_pal : (applyReset s).pal = [] := rfl
@[simp] theorem applyReset_input : (applyReset s).input = [] := rfl
@[simp] theorem applyReset_fb : (applyReset s).fb = [] := rfl
@[simp] theorem applyReset_out : (applyReset s).out = [] := rfl
@[simp] theorem applyReset_trace : (applyReset s).trace = s.trace := rfl
@[simp] theorem applyReset_result : (applyReset s).result = .nothing := rfl
@[simp] theorem applyReset_host : (applyReset s).host = s.host := rfl
@[simp] theorem applyReset_hostData : (applyReset s).hostData = s.hostData := rfl
@[simp] theorem applyReset_resetIn : (applyReset s).resetIn = none := rfl
@[simp] theorem applyReset_seed : (applyReset s).seed = s.seed + 2 := rfl

end ApplyReset

end Sys2Proof.Machine
end

