-- ==== Sys2Proof/Laws/Ops.lean ====
section
/-! SUPPORT. Everything each shared operation can do, said once: typed reads, the FB store, fault entry, the flows of the
pixel loop. -/

namespace Sys2Proof.Machine

@[simp] theorem readIn_eq_ok {s : State} {a : Nat} {b : Byte} : readIn s a = .ok b ↔ memRead s.input a = some b := by
  unfold readIn
  split <;> simp_all

@[simp] theorem readFb_eq_ok {s : State} {a : Nat} {p : Pixel} : readFb s a = .ok p ↔ memRead s.fb a = some p := by
  unfold readFb
  split <;> simp_all

@[simp] theorem readPal_eq_ok {s : State} {a : Nat} {e : PalEntry} : readPal s a = .ok e ↔ memRead s.pal a = some e := by
  unfold readPal
  split <;> simp_all

/-- A store that succeeds writes one unit of FB, and its address exists. -/
theorem storeFb_eq_ok {s t : State} {a : Nat} {p : Pixel} :
    storeFb s a p = .ok t ↔ fits s.params.fbCapacity (a + 1) = true ∧ t = { s with fb := memWrite a p s.fb } := by
  unfold storeFb
  split
  · rename_i h
    simp only [Except.ok.injEq, h, true_and]
    exact eq_comm
  · rename_i h
    simp only [reduceCtorEq, h, false_and, Bool.false_eq_true]

theorem fits_of_le {cap : Option Nat} {m n : Nat} (h : m ≤ n) (hn : fits cap n = true) : fits cap m = true := by
  unfold fits at *
  split <;> simp_all
  omega

/-- A fault of C.DECODE leaves OUT alone. -/
@[simp] theorem takeFault_decode_out (e : Exc) (info : BitVec 32) (s : State) :
    (takeFault .decode e info s).out = s.out := rfl

/-- A fault of C.ENCSUB leaves FB alone. -/
@[simp] theorem takeFault_encode_fb (e : Exc) (info : BitVec 32) (s : State) :
    (takeFault .encode e info s).fb = s.fb := rfl

/-- What a fault of C.DECODE leaves of FB (60_exceptions.md R253). -/
theorem takeFault_decode_fb (e : Exc) (info : BitVec 32) (s : State) :
    (takeFault .decode e info s).fb = memUnspecify (area s) (Config.freePixel (s.seed + 1)) s.fb := rfl

/-- FB at or above `W * H` is untouched by a fault (60_exceptions.md R253). -/
theorem takeFault_decode_fb_above (e : Exc) (info : BitVec 32) (s : State) {a : Nat} (h : area s ≤ a) :
    memRead (takeFault .decode e info s).fb a = memRead s.fb a := by
  rw [takeFault_decode_fb, memRead_memUnspecify]
  simp [Nat.not_lt.2 h]

/-- Fault entry as one update (60_exceptions.md R250). -/
theorem takeFault_eq (c : Running) (e : Exc) (info : BitVec 32) (s : State) :
    takeFault c e info s = { s with
      err := excCode e, errInfo := info, errCur := s.cur, run := .fault
      trace := s.trace ++ [.fault (excCode e) info s.cur]
      latches := (takeFault c e info s).latches, fb := (takeFault c e info s).fb, out := (takeFault c e info s).out
      seed := s.seed + 2 } := by
  cases c <;> rfl

theorem memoryWf_takeFault (c : Running) (e : Exc) (info : BitVec 32) {s : State} (h : memoryWf s = true) :
    memoryWf (takeFault c e info s) = true := by
  simp only [memoryWf, Bool.and_eq_true] at h ⊢
  obtain ⟨⟨⟨h1, h2⟩, h3⟩, h4⟩ := h
  cases c
  · exact ⟨⟨⟨h1, h2⟩, memWf_memUnspecify _ _ h3⟩, h4⟩
  · exact ⟨⟨⟨h1, h2⟩, h3⟩, memWf_memUnspecifyAll _ h4⟩

theorem excCode_range (e : Exc) : 1 ≤ (excCode e).toNat ∧ (excCode e).toNat ≤ 9 := by
  cases e <;> decide

theorem flowThen_eq_go {r : Flow} {k : State → Flow} {t : State} :
    flowThen r k = .go t ↔ ∃ u, r = .go u ∧ k u = .go t := by
  cases r <;> simp [flowThen]

theorem flowThen_eq_ended {r : Flow} {k : State → Flow} {t : State} :
    flowThen r k = .ended t ↔ r = .ended t ∨ ∃ u, r = .go u ∧ k u = .ended t := by
  cases r <;> simp [flowThen]

theorem flowThen_eq_stuck {r : Flow} {k : State → Flow} {f : Fault} :
    flowThen r k = .stuck f ↔ r = .stuck f ∨ ∃ u, r = .go u ∧ k u = .stuck f := by
  cases r <;> simp [flowThen]

@[simp] theorem ctIndexed_of_filter {s : State} : ctIndexed (warnIdxFilt s).ctype = ctIndexed s.ctype := rfl

@[simp] theorem recordWarning_of_not_indexed {s : State} (h : ctIndexed s.ctype = false) : recordWarning s = s := by
  simp [recordWarning, h]

/-- An address of PAL is below PAL_ENTRIES and below 256 (10_state.md R31, 20_memory.md R60). -/
theorem lt_palSize {p : Params} {a : Nat} : a < palSize p ↔ a < p.palEntries ∧ a < 256 := Nat.lt_min

/-- A PAL_LEN that is accepted is at most PAL_ENTRIES and 256, so its nine bits hold it (10_state.md R31). -/
theorem le_palSize {p : Params} {v : Nat} : v ≤ palSize p ↔ v ≤ p.palEntries ∧ v ≤ 256 := Nat.le_min

end Sys2Proof.Machine
end

