-- ==== Sys2Proof/Laws/PerInstr.lean ====
section
/-! SUPPORT. Statements for all instructions as syntax, one lemma for each constructor: which instructions have a code, and
that it has the instruction's own format. -/

namespace Sys2Proof.Laws.Format

/-- An instruction of format `internal` has no code; any other has one, of its own format (opcode_table.json). -/
def Statement (i : Instr) : Prop :=
  match encode i with
  | none => i.format = .internal
  | some c => i.format = c.format

theorem fNone : Statement .fNone := rfl
theorem fSub : Statement .fSub := rfl
theorem fUp : Statement .fUp := rfl
theorem fAvg : Statement .fAvg := rfl
theorem fPaeth : Statement .fPaeth := rfl
theorem cDecode : Statement .cDecode := rfl
theorem cEncsub : Statement .cEncsub := rfl
theorem cClear : Statement .cClear := rfl
theorem pAdd (p q : Pixel) : Statement (.pAdd p q) := rfl
theorem pSub (p q : Pixel) : Statement (.pSub p q) := rfl
theorem pAvg (p q : Pixel) : Statement (.pAvg p q) := rfl
theorem pPaeth (a b c : Pixel) : Statement (.pPaeth a b c) := rfl
theorem uExtract (base depth i : Nat) : Statement (.uExtract base depth i) := rfl
theorem uCompose (x : Nat) : Statement (.uCompose x) := rfl
theorem uPalette (x : Nat) : Statement (.uPalette x) := rfl
theorem sDims (k : Nat) : Statement (.sDims k) := rfl
theorem sXform (k x y : Nat) : Statement (.sXform k x y) := rfl

end Sys2Proof.Laws.Format
end

