-- ==== Sys2Proof/Laws/Record.lean ====
section
/-! SUPPORT. Everything a pixel step, a pixel loop, a record step and the sequencer can do, said once, so that claims about
them are case analyses. -/

namespace Sys2Proof.Machine

/-- A store at the current pixel writes one FB word and `x[R]` (42_scanline_reconstructor.md R163). -/
theorem storePixel_go {r : Pixel} {s t : State} (h : storePixel r s = .go t) :
    fits s.params.fbCapacity (lin s s.px.toNat s.py.toNat + 1) = true ∧
    t = { s with
      latches := { s.latches with r := r }, fb := memWrite (lin s s.px.toNat s.py.toNat) r s.fb } := by
  unfold storePixel at h
  split at h
  · cases h
  · rename_i u hu
    cases h
    exact storeFb_eq_ok.1 hu

theorem storePixel_ne_ended {r : Pixel} {s t : State} : storePixel r s ≠ .ended t := by
  unfold storePixel
  split <;> simp

/-- U.PALETTE that goes on has loaded `x[V]` with an entry below PAL_LEN (41_bit_depth_unpacker.md R144). -/
theorem lookupPixel_go {s t : State} {x : Nat} (h : lookupPixel s x = .go t) :
    ∃ (i : Byte) (e : PalEntry), extractSample s (s.cur + 1) s.depth.toNat x = .ok i ∧ i.toNat < s.palLen.toNat ∧
      memRead s.pal i.toNat = some e ∧ t = loadV (palettePixel e) s := by
  unfold lookupPixel at h
  split at h
  · cases h
  · rename_i i hi
    split at h
    · cases h
    · split at h
      · cases h
      · rename_i e he
        cases h
        exact ⟨i, e, hi, by omega, readPal_eq_ok.1 he, rfl⟩

/-- U.PALETTE that faults has found an index not below PAL_LEN (60_exceptions.md R251). -/
theorem lookupPixel_ended {s t : State} {x : Nat} (h : lookupPixel s x = .ended t) :
    ∃ i : Byte, extractSample s (s.cur + 1) s.depth.toNat x = .ok i ∧ s.palLen.toNat ≤ i.toNat ∧
      t = takeFault .decode .palidx (i.setWidth 32) { s with px := BitVec.ofNat 32 x } := by
  unfold lookupPixel at h
  split at h
  · cases h
  · rename_i i hi
    split at h
    · cases h
      exact ⟨i, hi, ‹_›, rfl⟩
    · split at h <;> cases h

/-- A pixel step that goes on writes the latches and one FB word, at the current pixel. -/
theorem pixelStep_go {f : Filter} {s t : State} (h : pixelStep f s = .go t) :
    fits s.params.fbCapacity (lin s s.px.toNat s.py.toNat + 1) = true ∧
    ∃ r, t = { s with latches := t.latches, fb := memWrite (lin s s.px.toNat s.py.toNat) r s.fb } := by
  unfold pixelStep at h
  split at h
  · obtain ⟨u, hu, ht⟩ := flowThen_eq_go.1 h
    obtain ⟨i, e, -, -, -, rfl⟩ := lookupPixel_go hu
    obtain ⟨h1, rfl⟩ := storePixel_go ht
    exact ⟨h1, _, rfl⟩
  · unfold filteredPixel at h
    split at h
    · cases h
    · obtain ⟨h1, rfl⟩ := storePixel_go h
      exact ⟨h1, _, rfl⟩

/-- A pixel step that ends the command has taken `E_PALIDX`, on an indexed image. -/
theorem pixelStep_ended {f : Filter} {s t : State} (h : pixelStep f s = .ended t) :
    ctIndexed s.ctype = true ∧ ∃ i : Byte, extractSample s (s.cur + 1) s.depth.toNat s.px.toNat = .ok i ∧
      s.palLen.toNat ≤ i.toNat ∧ t = takeFault .decode .palidx (i.setWidth 32) s := by
  unfold pixelStep at h
  split at h
  · refine ⟨‹_›, ?_⟩
    rcases flowThen_eq_ended.1 h with h | ⟨u, -, hu⟩
    · obtain ⟨i, hi, hp, rfl⟩ := lookupPixel_ended h
      refine ⟨i, hi, hp, ?_⟩
      rw [BitVec.ofNat_toNat, BitVec.setWidth_eq]
    · exact absurd hu storePixel_ne_ended
  · unfold filteredPixel at h
    split at h
    · cases h
    · exact absurd h storePixel_ne_ended

/-- A pixel loop that goes on writes only the latches, PX, and FB words of pixels `x .. x + n - 1` of its row. -/
theorem pixelLoop_go {f : Filter} {n x : Nat} {s t : State} (h : pixelLoop f n x s = .go t) (hx : x + n ≤ 2 ^ 32) :
    t = { s with latches := t.latches, px := t.px, fb := t.fb } ∧
    (∀ a, (∀ y, x ≤ y → y < x + n → a ≠ lin s y s.py.toNat) → memRead t.fb a = memRead s.fb a) ∧
    (∀ a, (memRead s.fb a).isSome → (memRead t.fb a).isSome) ∧
    (memWf s.fb = true → memWf t.fb = true) := by
  induction n generalizing x s with
  | zero =>
    cases h
    exact ⟨rfl, fun _ _ => rfl, fun _ => id, id⟩
  | succ n ih =>
    obtain ⟨u, hu, ht⟩ := flowThen_eq_go.1 h
    obtain ⟨-, r, hr⟩ := pixelStep_go hu
    obtain ⟨h1, h2, h3, h4⟩ := ih ht (by omega)
    have hpx : (BitVec.ofNat 32 x).toNat = x := by
      rw [BitVec.toNat_ofNat, Nat.mod_eq_of_lt (by omega)]
    dsimp only at hr
    rw [hpx] at hr
    have hlin : ∀ y z, lin u y z = lin s y z := fun y z => by rw [hr]; rfl
    have hlin' : lin { s with px := BitVec.ofNat 32 x } x s.py.toNat = lin s x s.py.toNat := rfl
    have hpy : u.py = s.py := by rw [hr]
    have hfb : u.fb = memWrite (lin s x s.py.toNat) r s.fb := by rw [hr]; rfl
    refine ⟨?_, fun a ha => ?_, fun a ha => ?_, fun hw => ?_⟩
    · rw [h1, hr]
    · rw [h2 a (fun y hy hy' => by rw [hlin, hpy]; exact ha y (by omega) (by omega)), hfb,
        memRead_memWrite_other _ _ (ha x (by omega) (by omega))]
    · refine h3 a ?_
      rw [hfb, memRead_memWrite]
      split
      · rfl
      · exact ha
    · exact h4 (by rw [hfb]; exact memWf_memWrite _ _ hw)

/-- A pixel loop that ends the command has taken `E_PALIDX` in a state that differs from its first one in the latches, PX and
FB only, as a loop that goes on would leave it. -/
theorem pixelLoop_ended {f : Filter} {n x : Nat} {s t : State} (h : pixelLoop f n x s = .ended t) (hx : x + n ≤ 2 ^ 32) :
    ctIndexed s.ctype = true ∧ ∃ (u : State) (i : Byte),
      u = { s with latches := u.latches, px := u.px, fb := u.fb } ∧
      t = takeFault .decode .palidx (i.setWidth 32) u ∧
      (∀ a, (∀ y, x ≤ y → y < x + n → a ≠ lin s y s.py.toNat) → memRead u.fb a = memRead s.fb a) ∧
      (memWf s.fb = true → memWf u.fb = true) := by
  induction n generalizing x s with
  | zero => cases h
  | succ n ih =>
    rcases flowThen_eq_ended.1 h with h | ⟨u, hu, ht⟩
    · obtain ⟨h1, i, -, -, rfl⟩ := pixelStep_ended h
      exact ⟨h1, _, i, rfl, rfl, fun _ _ => rfl, id⟩
    · obtain ⟨-, r, hr⟩ := pixelStep_go hu
      obtain ⟨h1, v, i, hv, ht, h2, h3⟩ := ih ht (by omega)
      have hpx : (BitVec.ofNat 32 x).toNat = x := by
        rw [BitVec.toNat_ofNat, Nat.mod_eq_of_lt (by omega)]
      dsimp only at hr
      rw [hpx] at hr
      have hlin : ∀ y z, lin u y z = lin s y z := fun y z => by rw [hr]; rfl
      have hpy : u.py = s.py := by rw [hr]
      have hfb : u.fb = memWrite (lin s x s.py.toNat) r s.fb := by rw [hr]; rfl
      refine ⟨by rw [hr] at h1; exact h1, v, i, by rw [hv, hr], ht, fun a ha => ?_, fun hw => h3 ?_⟩
      · rw [h2 a (fun y hy hy' => by rw [hlin, hpy]; exact ha y (by omega) (by omega)), hfb,
          memRead_memWrite_other _ _ (ha x (by omega) (by omega))]
      · rw [hfb]; exact memWf_memWrite _ _ hw

/-- The state in which a record step's pixel loop starts (42_scanline_reconstructor.md R160). -/
theorem recordStep_next {f : Filter} {s t : State} (h : recordStep f s = .next t) :
    recordReady s = true ∧
    ((s.inLen < s.cur + 1 + rowBytes s ∧
        t = takeFault .decode .trunc 0 { s with px := 0, ft := filterCode f }) ∨
     (s.cur + 1 + rowBytes s ≤ s.inLen ∧
        ∃ u, pixelLoop f s.pw.toNat 0 (recordWarning { s with px := 0, ft := filterCode f }) = .go u ∧
          t = endRecord (rowBytes s) u) ∨
     (s.cur + 1 + rowBytes s ≤ s.inLen ∧
        pixelLoop f s.pw.toNat 0 (recordWarning { s with px := 0, ft := filterCode f }) = .ended t)) := by
  unfold recordStep at h
  split at h
  · refine ⟨‹_›, ?_⟩
    dsimp only at h
    have hr : rowBytes { s with px := 0, ft := filterCode f } = rowBytes s := rfl
    rw [hr] at h
    split at h
    · cases h
      exact .inl ⟨‹_›, rfl⟩
    · cases hl : pixelLoop f s.pw.toNat 0 (recordWarning { s with px := 0, ft := filterCode f }) with
      | go u => rw [hl] at h; cases h; exact .inr (.inl ⟨by omega, u, rfl, rfl⟩)
      | ended u => rw [hl] at h; cases h; exact .inr (.inr ⟨by omega, rfl⟩)
      | stuck e => rw [hl] at h; cases h
  · cases h

/-- Where the sequencer enters: DONE, or row 0 of the first pass of the list that is not empty (43_interlace_sequencer.md
R205, R207). -/
theorem enterPass_cases (s : State) (ks : List Nat) :
    (∃ (q : BitVec 3) (m n : BitVec 32), enterPass s ks = finish { s with pass := q, pw := m, ph := n }) ∨
    ∃ k ∈ ks, enterPass s ks = { setDims k { s with pass := BitVec.ofNat 3 k } with py := 0 } ∧
      (enterPass s ks).pw ≠ 0 ∧ (enterPass s ks).ph ≠ 0 := by
  induction ks generalizing s with
  | nil => exact .inl ⟨s.pass, s.pw, s.ph, rfl⟩
  | cons k ks ih =>
    unfold enterPass
    dsimp only
    split
    · rcases ih (setDims k { s with pass := BitVec.ofNat 3 k }) with ⟨q, m, n, h⟩ | ⟨j, hj, h, h1, h2⟩
      · exact .inl ⟨q, m, n, h⟩
      · exact .inr ⟨j, List.mem_cons_of_mem _ hj, h, h1, h2⟩
    · rename_i h
      rw [not_or] at h
      exact .inr ⟨k, List.mem_cons_self, rfl, h.1, h.2⟩

end Sys2Proof.Machine
end

