-- ==== Sys2Proof/Laws/Step.lean ====
section
/-! SUPPORT. Everything a step can do, said once: the reset input, a record of a running decode, or a host move; and what the
commands come to. -/

namespace Sys2Proof.Machine

/-- What the fetch hands to the execution is one of the five filter instructions, with PX and FT set. -/
theorem fetch_issue {s t : State} {i : Instr} (h : fetch s = .issue i t) :
    s.cur < s.inLen ∧ ∃ (b : Byte) (f : Filter), memRead s.input s.cur = some b ∧ decode (.record b) = .ok i ∧
      i = filterInstr f ∧ b = filterCode f ∧ t = { s with px := 0, ft := b } := by
  unfold fetch at h
  split at h
  · cases h
  · refine ⟨by omega, ?_⟩
    split at h
    · cases h
    · rename_i b hb
      split at h
      · cases h
      · rename_i j hj
        cases h
        refine ⟨b, ?_⟩
        have hcase : b.toNat = 0 ∨ b.toNat = 1 ∨ b.toNat = 2 ∨ b.toNat = 3 ∨ b.toNat = 4 := by
          by_contra hc
          simp only [not_or] at hc
          obtain ⟨h0, h1, h2, h3, h4⟩ := hc
          simp only [decode, decodeRecord] at hj
          cases hj
        rcases hcase with hc | hc | hc | hc | hc
        · exact ⟨.none, readIn_eq_ok.1 hb, hj, by simp_all [decode, decodeRecord, filterInstr],
            BitVec.eq_of_toNat_eq (by simp [hc, filterCode]), rfl⟩
        · exact ⟨.sub, readIn_eq_ok.1 hb, hj, by simp_all [decode, decodeRecord, filterInstr],
            BitVec.eq_of_toNat_eq (by simp [hc, filterCode]), rfl⟩
        · exact ⟨.up, readIn_eq_ok.1 hb, hj, by simp_all [decode, decodeRecord, filterInstr],
            BitVec.eq_of_toNat_eq (by simp [hc, filterCode]), rfl⟩
        · exact ⟨.avg, readIn_eq_ok.1 hb, hj, by simp_all [decode, decodeRecord, filterInstr],
            BitVec.eq_of_toNat_eq (by simp [hc, filterCode]), rfl⟩
        · exact ⟨.paeth, readIn_eq_ok.1 hb, hj, by simp_all [decode, decodeRecord, filterInstr],
            BitVec.eq_of_toNat_eq (by simp [hc, filterCode]), rfl⟩

/-- What a fetch fault is: `E_TRUNC` with FT unspecified, or `E_FILTER` with the byte (42_scanline_reconstructor.md R160). -/
theorem fetch_faulted {s t : State} (h : fetch s = .faulted t) :
    (s.inLen ≤ s.cur ∧ t = takeFault .decode .trunc 0 (freeFilterType { s with px := 0 })) ∨
    ∃ b : Byte, memRead s.input s.cur = some b ∧
      t = takeFault .decode .filter (b.setWidth 32) { s with px := 0, ft := b } := by
  unfold fetch at h
  split at h
  · cases h
    exact .inl ⟨‹_›, rfl⟩
  · split at h
    · cases h
    · rename_i b hb
      split at h
      · cases h
        exact .inr ⟨b, readIn_eq_ok.1 hb, rfl⟩
      · cases h

/-- The meaning of a filter instruction is the record step of its filter. -/
theorem exec_filterInstr (f : Filter) (s : State) : exec (filterInstr f) s = recordStep f s := by
  cases f <;> rfl

/-- A step of a running decode: a fetch fault, a record that faults, or a record and the move to the next one. -/
theorem stepRecord_next {s t : State} (h : stepRecord s = .next t) :
    fetch s = .faulted t ∨
    ∃ (f : Filter) (u : State), s.cur < s.inLen ∧ memRead s.input s.cur = some (filterCode f) ∧
      recordStep f { s with px := 0, ft := filterCode f } = .next u ∧ t = if u.run = .run then nextRecord u else u := by
  unfold stepRecord at h
  cases hf : fetch s with
  | faulted u => rw [hf] at h; cases h; exact .inl rfl
  | stuck f => rw [hf] at h; cases h
  | issue i u =>
    rw [hf] at h
    obtain ⟨h1, b, f, hb, -, rfl, rfl, rfl⟩ := fetch_issue hf
    dsimp only at h
    rw [exec_filterInstr] at h
    cases hr : recordStep f { s with px := 0, ft := filterCode f } with
    | next v => rw [hr] at h; cases h; exact .inr ⟨f, v, h1, hb, hr, rfl⟩
    | fault e => rw [hr] at h; cases h
    | refused e => rw [hr] at h; cases h

/-- What a settled host move writes: what the host reads, or, in IDLE, one configuration register or one unit of memory. -/
theorem hostMove_settled {op : HostOp} {s t : State} (h : hostMove op s = .settled t) :
    (∃ v, t = { s with hostData := v }) ∨
    s.run = .idle ∧
      ((∃ w n d c l p m, t = { s with width := w, height := n, depth := d, ctype := c, ilace := l, palLen := p, inLen := m }) ∨
       (∃ a v, t = { s with input := memWrite a v s.input }) ∨
       (∃ a v, t = { s with pal := memWrite a v s.pal }) ∨
       (∃ a v, t = { s with fb := memWrite a v s.fb })) := by
  cases op with
  | writeReg n v =>
    simp only [hostMove] at h
    split at h
    · unfold writeCtrl at h
      split at h <;> cases h
    · split at h
      · cases h
      · rename_i hr
        refine .inr ⟨by simpa using hr, .inl ?_⟩
        split at h
        · rename_i u hu
          cases h
          unfold writeReg at hu
          split at hu
          · cases hu; exact ⟨_, _, _, _, _, _, _, rfl⟩
          · cases hu; exact ⟨_, _, _, _, _, _, _, rfl⟩
          · cases hu; exact ⟨_, _, _, _, _, _, _, rfl⟩
          · cases hu; exact ⟨_, _, _, _, _, _, _, rfl⟩
          · cases hu; exact ⟨_, _, _, _, _, _, _, rfl⟩
          · split at hu <;> cases hu
            exact ⟨_, _, _, _, _, _, _, rfl⟩
          · split at hu <;> cases hu
            exact ⟨_, _, _, _, _, _, _, rfl⟩
          · cases hu; exact ⟨_, _, _, _, _, _, _, rfl⟩
        · cases h
  | readReg n => cases h; exact .inl ⟨_, rfl⟩
  | writeIn a v =>
    simp only [hostMove, hostStore] at h
    split at h
    · cases h
    · rename_i hr
      split at h <;> cases h
      exact .inr ⟨by simpa using hr, .inr (.inl ⟨a, v, rfl⟩)⟩
  | writePal a v =>
    simp only [hostMove, hostStore] at h
    split at h
    · cases h
    · rename_i hr
      split at h <;> cases h
      exact .inr ⟨by simpa using hr, .inr (.inr (.inl ⟨a, v, rfl⟩))⟩
  | writeFb a v =>
    simp only [hostMove, hostStore] at h
    split at h
    · cases h
    · rename_i hr
      split at h <;> cases h
      exact .inr ⟨by simpa using hr, .inr (.inr (.inr ⟨a, v, rfl⟩))⟩
  | read sp a =>
    simp only [hostMove] at h
    split at h
    · split at h
      · cases h; exact .inl ⟨_, rfl⟩
      · cases h
    · cases h

/-- A host move that starts a command is a write to `CTRL` of that command's code; the state is the one it was made in. -/
theorem hostMove_command {op : HostOp} {s t : State} {i : Instr} (h : hostMove op s = .command i t) :
    t = s ∧ ∃ v, op = .writeReg 0 v ∧ decode (.ctrl (BitVec.ofNat 8 v)) = .ok i ∧
      ((i = .cDecode ∧ v % 256 = 1) ∨ (i = .cEncsub ∧ v % 256 = 2) ∨ (i = .cClear ∧ v % 256 = 3)) := by
  cases op with
  | writeReg n v =>
    simp only [hostMove] at h
    split at h
    · subst_vars
      unfold writeCtrl at h
      split at h
      · rename_i j hj
        cases h
        refine ⟨rfl, v, rfl, hj, ?_⟩
        simp only [decode, decodeCommand, BitVec.toNat_ofNat] at hj
        norm_num at hj
        split at hj <;> cases hj
        · exact .inl ⟨rfl, ‹_›⟩
        · exact .inr (.inl ⟨rfl, ‹_›⟩)
        · exact .inr (.inr ⟨rfl, ‹_›⟩)
      · cases h
    · split at h
      · cases h
      · split at h <;> cases h
  | readReg n => cases h
  | writeIn a v =>
    simp only [hostMove, hostStore] at h
    split at h
    · cases h
    · split at h <;> cases h
  | writePal a v =>
    simp only [hostMove, hostStore] at h
    split at h
    · cases h
    · split at h <;> cases h
  | writeFb a v =>
    simp only [hostMove, hostStore] at h
    split at h
    · cases h
    · split at h <;> cases h
  | read sp a =>
    simp only [hostMove] at h
    split at h
    · split at h <;> cases h
    · cases h

/-- A step while no command runs: nothing, a settled host move, or a command. -/
theorem stepHost_next {s t : State} (h : stepHost s = .next t) :
    (s.host = [] ∧ t = s) ∨
    ∃ op rest, s.host = op :: rest ∧
      (hostMove op { s with host := rest } = .settled t ∨
       ∃ i, hostMove op { s with host := rest } = .command i { s with host := rest } ∧
         exec i { s with host := rest } = .next t) := by
  unfold stepHost at h
  split at h
  · cases h
    exact .inl ⟨‹_›, rfl⟩
  · rename_i op rest hh
    refine .inr ⟨op, rest, hh, ?_⟩
    split at h
    · rename_i u hu
      cases h
      exact .inl hu
    · cases h
    · cases h
    · rename_i i u hu
      obtain ⟨rfl, -⟩ := hostMove_command hu
      exact .inr ⟨i, hu, h⟩

/-- A step: the reset input, or, counting it down, a record or a host move. -/
theorem step_next {s t : State} (h : step s = .next t) :
    (s.resetIn = some 0 ∧ t = applyReset s) ∨
    (s.resetIn ≠ some 0 ∧ ∃ r, (s.resetIn = none → r = none) ∧
      ((s.run = .run ∧ stepRecord { s with resetIn := r } = .next t) ∨
       (s.run ≠ .run ∧ stepHost { s with resetIn := r } = .next t))) := by
  unfold step at h
  split at h
  · cases h
    exact .inl ⟨‹_›, rfl⟩
  · rename_i n hn
    refine .inr ⟨by simp [hn], some n, by simp [hn], ?_⟩
    unfold stepOn at h
    split at h
    · exact .inl ⟨‹_›, h⟩
    · exact .inr ⟨‹_›, h⟩
  · rename_i hn
    refine .inr ⟨by simp [hn], none, fun _ => rfl, ?_⟩
    have hs : ({ s with resetIn := none } : State) = s := by rw [← hn]
    rw [hs]
    unfold stepOn at h
    split at h
    · exact .inl ⟨‹_›, h⟩
    · exact .inr ⟨‹_›, h⟩

/-- What C.DECODE comes to: a start-check fault, or the start of the sequencer on a zeroed image (44_commands.md R222). -/
theorem execCDecode_next {s t : State} (h : execCDecode s = .next t) :
    s.run = .idle ∧
    ((∃ e info, startCheck (beginDecode s) = some (e, info) ∧ t = takeFault .decode e info (beginDecode s)) ∨
     (startCheck (beginDecode s) = none ∧ t = enterPass (zeroFill (beginDecode s)) (allPasses s.ilace))) := by
  unfold execCDecode at h
  split at h
  · refine ⟨‹_›, ?_⟩
    dsimp only at h
    split at h
    · cases h
      exact .inl ⟨_, _, ‹_›, rfl⟩
    · cases h
      exact .inr ⟨‹_›, rfl⟩
  · cases h

/-- What C.ENCSUB comes to: a start-check fault, or OUT written and DONE (44_commands.md R226). -/
theorem execCEncsub_next {s t : State} (h : execCEncsub s = .next t) :
    s.run = .idle ∧
    ((∃ e, t = takeFault .encode e 0 (beginEncode s)) ∨
     ∃ bytes, encodeRows (beginEncode s) s.height.toNat 0 = .ok bytes ∧
       t = finish { beginEncode s with out := memStorePrefix bytes s.out, outLen := bytes.length }) := by
  unfold execCEncsub at h
  split at h
  · refine ⟨‹_›, ?_⟩
    dsimp only at h
    split at h
    · cases h
      exact .inl ⟨_, rfl⟩
    · split at h
      · cases h
        exact .inl ⟨_, rfl⟩
      · split at h
        · cases h
        · rename_i bytes hb
          cases h
          exact .inr ⟨bytes, hb, rfl⟩
  · cases h

end Sys2Proof.Machine
end

