-- ==== Sys2Proof/Tests/Slice0.lean ====
section
/-! SUPPORT. The model's own tests: well-formedness, the encodings written out bit by bit, and single steps whose expected
results stand in spec/ (95_test_vectors.md unless another file is named). -/

namespace Sys2Proof.Tests

open Sys2Proof.Machine

/-! ## Well-formedness: one ill-formed term for each check -/

theorem test_wf_refuses_depth_3 : Instr.wf (.uExtract 0 3 0) = false := by decide
theorem test_wf_refuses_depth_16 : Instr.wf (.uExtract 0 16 0) = false := by decide
theorem test_wf_accepts_depth_8 : Instr.wf (.uExtract 0 8 0) = true := by decide
theorem test_wf_refuses_compose_column : Instr.wf (.uCompose (2 ^ 32)) = false := by decide
theorem test_wf_refuses_palette_column : Instr.wf (.uPalette (2 ^ 32)) = false := by decide
theorem test_wf_refuses_dims_pass_8 : Instr.wf (.sDims 8) = false := by decide
theorem test_wf_accepts_dims_pass_7 : Instr.wf (.sDims 7) = true := by decide
theorem test_wf_refuses_xform_pass_8 : Instr.wf (.sXform 8 0 0) = false := by decide
theorem test_wf_refuses_xform_x : Instr.wf (.sXform 7 (2 ^ 32) 0) = false := by decide
theorem test_wf_refuses_xform_y : Instr.wf (.sXform 7 0 (2 ^ 32)) = false := by decide

/-! ## Decoding: words written out from 30_encoding.md R92, R105, R106 -/

theorem test_decode_f_none : decode (.record 0b00000000) = .ok .fNone := rfl
theorem test_decode_f_sub : decode (.record 0b00000001) = .ok .fSub := rfl
theorem test_decode_f_up : decode (.record 0b00000010) = .ok .fUp := rfl
theorem test_decode_f_avg : decode (.record 0b00000011) = .ok .fAvg := rfl
theorem test_decode_f_paeth : decode (.record 0b00000100) = .ok .fPaeth := rfl
theorem test_decode_refuses_filter_5 : decode (.record 0b00000101) = .error (.illegalFilterType 5) := rfl
theorem test_decode_refuses_filter_ff : decode (.record 0b11111111) = .error (.illegalFilterType 0xFF) := rfl
theorem test_decode_c_decode : decode (.ctrl 0b00000001) = .ok .cDecode := rfl
theorem test_decode_c_encsub : decode (.ctrl 0b00000010) = .ok .cEncsub := rfl
theorem test_decode_c_clear : decode (.ctrl 0b00000011) = .ok .cClear := rfl
theorem test_decode_refuses_command_0 : decode (.ctrl 0b00000000) = .error (.reservedCommand 0) := rfl
theorem test_decode_refuses_command_4 : decode (.ctrl 0b00000100) = .error (.reservedCommand 4) := rfl
theorem test_decode_p_add (a b c : Pixel) : decode (.pau 0b00 a b c) = .ok (.pAdd a b) := rfl
theorem test_decode_p_sub (a b c : Pixel) : decode (.pau 0b01 a b c) = .ok (.pSub a b) := rfl
theorem test_decode_p_avg (a b c : Pixel) : decode (.pau 0b10 a b c) = .ok (.pAvg a b) := rfl
theorem test_decode_p_paeth (a b c : Pixel) : decode (.pau 0b11 a b c) = .ok (.pPaeth a b c) := rfl

/-- 30_encoding.md R108: the record line of program P1 assembles to its five bytes. -/
theorem test_assemble_p1 : assembleRecord .fNone [0xAA, 0xBB, 0xCC, 0xFF] = some [0x00, 0xAA, 0xBB, 0xCC, 0xFF] := rfl
theorem test_table_word_f_paeth : decodeTableWord 8 4 = some .fPaeth := rfl
theorem test_table_word_illegal : decodeTableWord 8 5 = none := rfl

/-! ## Helpers -/

/-- The state after a step satisfies `q`. -/
def nextIs (o : Host.Outcome State Fault Refusal) (q : State → Bool) : Bool :=
  match o with
  | .next t => q t
  | _ => false

/-- The step stops with this fault. -/
def faultIs (o : Host.Outcome State Fault Refusal) (f : Fault) : Bool :=
  match o with
  | .fault g => g == f
  | _ => false

/-- The step is refused with this reason. -/
def refusedIs (o : Host.Outcome State Fault Refusal) (r : Refusal) : Bool :=
  match o with
  | .refused q => q == r
  | _ => false

/-- A configured machine with a stream in IN and a palette, before its command. -/
def configured (w h : BitVec 32) (depth ctype ilace : Byte) (stream : List Byte) (palette : List PalEntry) : State :=
  { State.reset with
    width := w, height := h, depth := depth, ctype := ctype, ilace := ilace
    palLen := BitVec.ofNat 9 palette.length, inLen := stream.length
    pal := memNumber 0 palette, input := memNumber 0 stream }

/-- The same machine in a running non-interlaced decode, at row `y`, with the record at `cur` and FB filled with `fb`. -/
def running (w h : BitVec 32) (depth ctype : Byte) (stream : List Byte) (palette : List PalEntry) (cur : Nat)
    (y : BitVec 32) (fb : List Pixel) : State :=
  { configured w h depth ctype 0 stream palette with
    run := .run, cur := cur, pw := w, ph := h, py := y, fb := memNumber 0 fb }

/-- `FB[0 ..]` holds these pixels. -/
def fbIs (t : State) (fb : List Pixel) : Bool := t.fb == memNumber 0 fb

/-- STATE, ERR, ERR_INFO, ERR_CUR. -/
def faultedAs (t : State) (e : Byte) (info : BitVec 32) (cur : Nat) : Bool :=
  t.run == .fault && t.err == e && t.errInfo == info && t.errCur == cur

/-! ## Pixel arithmetic -/

/-- V1.6. -/
theorem test_add_lanes : nextIs (exec (.pAdd 0x01FF80FF 0x01010180) State.reset)
    (fun t => t.result == .pixel 0x0200817F) = true := by decide
/-- V1.3: a 32-bit add would carry. -/
theorem test_add_no_carry : nextIs (exec (.pAdd 0x000000FF 0x00000001) State.reset)
    (fun t => t.result == .pixel 0) = true := by decide
/-- V1.8. -/
theorem test_sub_no_borrow : nextIs (exec (.pSub 0x00000100 0x00000001) State.reset)
    (fun t => t.result == .pixel 0x000001FF) = true := by decide
/-- V1.12. -/
theorem test_sub_lanes : nextIs (exec (.pSub 0x0200817F 0x01010180) State.reset)
    (fun t => t.result == .pixel 0x01FF80FF) = true := by decide
/-- V1.18: the ninth bit is kept, the dropped bit stays in its lane. -/
theorem test_avg_lanes : nextIs (exec (.pAvg 0xFF00FF00 0x0100FF01) State.reset)
    (fun t => t.result == .pixel 0x8000FF00) = true := by decide
/-- V1.17. -/
theorem test_avg_floor : nextIs (exec (.pAvg 0x01000100 0) State.reset)
    (fun t => t.result == .pixel 0) = true := by decide
/-- V1.31: the four lanes choose above, above-left, left, left. -/
theorem test_paeth_lanes : nextIs (exec (.pPaeth 0x32320A64 0x3C1E1464 0x28281E64) State.reset)
    (fun t => t.result == .pixel 0x3C280A64) = true := by decide
/-- V1.28: the two ties. -/
theorem test_paeth_ties : nextIs (exec (.pPaeth 0x03000000 0x00030000 0x01010000) State.reset)
    (fun t => t.result == .pixel 0x03030000) = true := by decide

/-! ## Unpacker -/

/-- V2.5: sample 4 at depth 2 from base 1 crosses into the second byte. -/
theorem test_extract_depth_2 :
    nextIs (exec (.uExtract 1 2 4) (configured 1 1 2 0 0 [0x00, 0x1B, 0xE4] []))
      (fun t => t.result == .sample 3) = true := by decide
/-- V2.7: sample 10 at depth 1. -/
theorem test_extract_depth_1 :
    nextIs (exec (.uExtract 0 1 10) (configured 1 1 1 0 0 [0xA5, 0x3C] []))
      (fun t => t.result == .sample 1) = true := by decide
/-- V2.11: grey, alpha. -/
theorem test_compose_grey_alpha :
    nextIs (exec (.uCompose 0) (configured 1 1 8 4 0 [0x00, 0x0F, 0x08] []))
      (fun t => t.latches.v == 0x0F0F0F08) = true := by decide
/-- 41_bit_depth_unpacker.md R142: the example of colour type 2. -/
theorem test_compose_rgb :
    nextIs (exec (.uCompose 0) (configured 1 1 8 2 0 [0x00, 0x10, 0x20, 0x30] []))
      (fun t => t.latches.v == 0x10203000) = true := by decide
/-- V2.14. -/
theorem test_palette_lookup :
    nextIs (exec (.uPalette 0) (configured 1 1 8 3 0 [0x00, 0x01] [0x123456, 0xABCDEF]))
      (fun t => t.latches.v == 0xABCDEFFF) = true := by decide
/-- V2.15: the first index beyond the palette. -/
theorem test_palette_index_out_of_range :
    nextIs (exec (.uPalette 1) (configured 2 1 2 3 0 [0x00, 0x30] [0, 0, 0]))
      (fun t => faultedAs t 9 3 0 && t.px == 1) = true := by decide

/-! ## Interlace -/

/-- 43_interlace_sequencer.md R202, the example: 5 by 3, pass 5. -/
theorem test_dims_pass_5 : nextIs (exec (.sDims 5) (configured 5 3 8 0 1 [] []))
    (fun t => t.pw == 3 && t.ph == 1) = true := by decide
/-- V4.5: pass 3 of a 5 by 3 image is empty. -/
theorem test_dims_pass_3 : nextIs (exec (.sDims 3) (configured 5 3 8 0 1 [] []))
    (fun t => t.pw == 2 && t.ph == 0) = true := by decide
/-- 43_interlace_sequencer.md R203, the example. -/
theorem test_xform_pass_6 : nextIs (exec (.sXform 6 1 1) State.reset)
    (fun t => t.result == .point 3 2) = true := by decide
/-- 43_interlace_sequencer.md R200: pass 0 is the identity. -/
theorem test_xform_pass_0 : nextIs (exec (.sXform 0 4 2) State.reset)
    (fun t => t.result == .point 4 2) = true := by decide

/-! ## Scanline records, each one step of a running decode -/

/-- Program P1: the last record completes the decode. -/
theorem test_f_none_p1 : nextIs (step (running 1 1 8 6 [0x00, 0xAA, 0xBB, 0xCC, 0xFF] [] 0 0 [0]))
    (fun t => t.run == .done && t.cur == 5 && t.warn == 0 && fbIs t [0xAABBCCFF]) = true := by decide
/-- V3.24: padding is ignored, alpha is forced. -/
theorem test_f_none_pad_bits : nextIs (step (running 1 1 4 2 [0x00, 0x12, 0x3F] [] 0 0 [0]))
    (fun t => t.run == .done && fbIs t [0x010203FF]) = true := by decide
/-- V3.20: pixel-wise at depth 1. -/
theorem test_f_sub_depth_1 : nextIs (step (running 8 1 1 0 [0x01, 0xFF] [] 0 0 [0, 0, 0, 0, 0, 0, 0, 0]))
    (fun t => fbIs t [0x010101FF, 0x020202FF, 0x030303FF, 0x040404FF, 0x050505FF, 0x060606FF, 0x070707FF, 0x080808FF])
    = true := by decide
/-- V3.22, the second record. -/
theorem test_f_up_wraps :
    nextIs (step (running 2 2 8 0 [0x00, 0xFF, 0x01, 0x02, 0x02, 0xFF] [] 3 1 [0xFFFFFFFF, 0x010101FF, 0, 0]))
      (fun t => t.run == .done && fbIs t [0xFFFFFFFF, 0x010101FF, 0x010101FF, 0x000000FF]) = true := by decide
/-- Program P5, the second record: lanes exceed the sample range. -/
theorem test_f_up_p5 :
    nextIs (step (running 2 2 4 4 [0x00, 0x1F, 0x28, 0x02, 0x11, 0xF1] [] 3 1 [0x0101010F, 0x02020208, 0, 0]))
      (fun t => fbIs t [0x0101010F, 0x02020208, 0x02020210, 0x11111109]) = true := by decide
/-- V3.23, the second record. -/
theorem test_f_avg :
    nextIs (step (running 2 2 8 0 [0x00, 0xFF, 0xFF, 0x03, 0x00, 0x01] [] 3 1 [0xFFFFFFFF, 0xFFFFFFFF, 0, 0]))
      (fun t => fbIs t [0xFFFFFFFF, 0xFFFFFFFF, 0x7F7F7FFF, 0xC0C0C0FF]) = true := by decide
/-- Program P2, its third record in a two-row image. -/
theorem test_f_paeth_p2 :
    nextIs (step (running 3 2 8 2 [0x04, 0x01, 0x01, 0x01, 0x02, 0x00, 0xFE, 0x00, 0x10, 0x00] [] 0 1
        [0x102030FF, 0x132435FF, 0x0B149DFF, 0, 0, 0]))
      (fun t => fbIs t [0x102030FF, 0x132435FF, 0x0B149DFF, 0x112131FF, 0x152433FF, 0x0B249DFF]) = true := by decide
/-- Program P4: the record of pass 5 stores to every second column. -/
theorem test_f_sub_interlaced :
    nextIs (step { configured 5 3 8 0 1 [0x01, 0x40, 0x01, 0x02] [] with
        run := .run, pass := 5, pw := 3, ph := 1, fb := memNumber 0 (List.replicate 15 0) })
      (fun t => t.run == .run && t.pass == 6 && t.py == 0 && t.pw == 2 && t.ph == 2 &&
        fbIs t [0, 0, 0, 0, 0, 0, 0, 0, 0, 0, 0x404040FF, 0, 0x414141FF, 0, 0x434343FF]) = true := by decide
/-- Program P3, its second record: the filter is not applied, the warning is raised. -/
theorem test_f_avg_indexed :
    nextIs (step (running 5 1 2 3 [0x03, 0xE4, 0x80] [0x000000, 0xFF0000, 0x00FF00, 0x0000FF] 0 0 [0, 0, 0, 0, 0]))
      (fun t => t.run == .done && t.warn == 1 &&
        fbIs t [0x0000FFFF, 0x00FF00FF, 0xFF0000FF, 0x000000FF, 0x00FF00FF]) = true := by decide
/-- V6.12: the filter range is checked before the row length. -/
theorem test_fault_filter : nextIs (step (running 2 2 8 0 [0x00, 0x01, 0x02, 0x05] [] 3 1 [0, 0, 0, 0]))
    (fun t => faultedAs t 8 5 3 && t.cur == 3 && t.py == 1 && t.px == 0 && t.ft == 5) = true := by decide
/-- V6.13: the row is one byte short. -/
theorem test_fault_short_row : nextIs (step (running 2 2 8 0 [0x00, 0x01, 0x02, 0x01, 0x03] [] 3 1 [0, 0, 0, 0]))
    (fun t => faultedAs t 7 0 3 && t.cur == 3 && t.py == 1 && t.px == 0 && t.ft == 1) = true := by decide
/-- V6.14: no byte is left for the filter type. -/
theorem test_fault_no_filter_byte : nextIs (step (running 2 2 8 0 [0x00, 0x01, 0x02] [] 3 1 [0, 0, 0, 0]))
    (fun t => faultedAs t 7 0 3 && t.py == 1 && t.px == 0) = true := by decide
/-- V6.16: the warning, then the fault at the fourth pixel. -/
theorem test_fault_palette_index :
    nextIs (step (running 4 1 2 3 [0x02, 0x1B] [0x000000, 0x111111, 0x222222] 0 0 [0, 0, 0, 0]))
      (fun t => faultedAs t 9 3 0 && t.warn == 1 && t.px == 3 && t.py == 0) = true := by decide
/-- 93_implementation_defined.md U2: a row byte the host never wrote. -/
theorem test_missing_byte_is_stuck : faultIs (step { running 1 1 8 0 [0x00] [] 0 0 [0] with inLen := 2 })
    (.noValue .input 1) = true := by decide

/-! ## Commands -/

/-- V5.1: the unconfigured machine, through a write to CTRL. -/
theorem test_decode_after_reset : nextIs (step { State.reset with host := [.writeReg 0 1] })
    (fun t => faultedAs t 1 0 0) = true := by decide
/-- 44_commands.md R222: the zero fill reaches `W*H - 1` and no further. -/
theorem test_decode_starts : nextIs (exec .cDecode { configured 2 1 8 0 1 [] [] with fb := [(1, 7), (2, 9)] })
    (fun t => t.run == .run && t.pass == 1 && t.pw == 1 && t.ph == 1 && t.fb == [(0, 0), (1, 0), (2, 9)]) = true := by decide
/-- V5.5. -/
theorem test_encsub_example :
    nextIs (exec .cEncsub { configured 2 1 0 0 0 [] [] with fb := memNumber 0 [0x10203040, 0x11223344] })
      (fun t => t.run == .done && t.outLen == 9 &&
        t.out == memNumber 0 [0x01, 0x10, 0x20, 0x30, 0x40, 0x01, 0x02, 0x03, 0x04]) = true := by decide
/-- V5.8, and 60_exceptions.md R250: the position of a start-check fault. -/
theorem test_encsub_zero_area :
    nextIs (exec .cEncsub { configured 0 3 0 0 0 [] [] with pass := 5, py := 6, px := 7, outLen := 8 })
      (fun t => faultedAs t 1 0 0 && t.outLen == 0 && t.pass == 0 && t.py == 0 && t.px == 0) = true := by decide
/-- V5.9: OUT is kept, its length is not. -/
theorem test_clear_keeps_out : nextIs (exec .cClear { State.reset with run := .done, outLen := 2, out := [(0, 1), (1, 2)] })
    (fun t => t.run == .idle && t.outLen == 0 && t.out == [(0, 1), (1, 2)]) = true := by decide
/-- V5.2. -/
theorem test_clear_leaves_fault : nextIs (exec .cClear { configured 1 1 8 0 0 [5] [6] with run := .fault, err := 1 })
    (fun t => t.run == .idle && t.err == 0 && t.width == 0 && t.depth == 0 && t.inLen == 0 && t.palLen == 0) = true := by
  decide
/-- V5.3. -/
theorem test_decode_refused_in_done : refusedIs (step { State.reset with run := .done, host := [.writeReg 0 1] })
    .commandNotIdle = true := by decide
/-- V5.4. -/
theorem test_reserved_command_refused : refusedIs (step { State.reset with host := [.writeReg 0 0xFF] })
    (.reservedCommand 0xFF) = true := by decide

/-! ## Host port and reset -/

/-- 10_state.md R35: DEPTH keeps the low eight bits. -/
theorem test_host_write_keeps_low_bits : nextIs (step { State.reset with host := [.writeReg 8 0x108] })
    (fun t => t.depth == 8 && t.host == []) = true := by decide
/-- 10_state.md R31. -/
theorem test_host_pal_len_257 : refusedIs (step { State.reset with host := [.writeReg 11 257] })
    (.palLenTooLarge 257) = true := by decide
/-- 93_implementation_defined.md U7: a value that nine bits would cut to 0 is refused, however large PAL_ENTRIES is. -/
theorem test_host_pal_len_512 : refusedIs (step { State.reset with
      params := { State.reset.params with palEntries := 1024 }, host := [.writeReg 11 512] })
    (.palLenTooLarge 512) = true := by decide
/-- 10_state.md R36. -/
theorem test_host_write_in_done : refusedIs (step { State.reset with run := .done, host := [.writeReg 6 1] })
    .writeNotIdle = true := by decide
/-- 10_state.md R35: register 1 is STATE. -/
theorem test_host_reads_state : nextIs (step { State.reset with run := .fault, host := [.readReg 1] })
    (fun t => t.hostData == 3) = true := by decide
/-- 20_memory.md R79. -/
theorem test_host_reads_missing : faultIs (step { State.reset with host := [.read .fb 5] }) (.noValue .fb 5) = true := by decide
/-- 70_reset_and_hazards.md R280: reset in RUN records no fault. -/
theorem test_reset_in_run : nextIs (step { running 1 1 8 0 [0, 7] [] 0 0 [0] with resetIn := some 0 })
    (fun t => t.run == .idle && t.err == 0 && t.width == 0 && t.cur == 0 && t.fb == []) = true := by decide
/-- The word a host places is the instruction the next step runs. -/
theorem test_with_fetch_word : nextIs (step (State.reset.withFetchWord 8 4))
    (fun t => t.run == .done && t.cur == 2 && fbIs t [0x000000FF]) = true := by decide

/-! ## Canonical memory -/

theorem test_memory_write_sorts : memWrite 1 (5 : Byte) [(0, 1), (2, 3)] = [(0, 1), (1, 5), (2, 3)] := by decide
theorem test_memory_write_replaces : memWrite 2 (5 : Byte) [(0, 1), (2, 3)] = [(0, 1), (2, 5)] := by decide
theorem test_memory_wf_refuses_unsorted : memWf [(1, (0 : Byte)), (1, 0)] = false := by decide
theorem test_reset_memory_wf : memoryWf State.reset = true := by decide

/-! ## Witnesses: for each statement of Certificates/Slice0/Obligations.lean with hypotheses, a state and operands that meet
them, clause by clause, at the ends of the ranges -/

/-- A 2 by 2 grey image in a running decode, at its last row, the record whole. -/
def lastRow : State := running 2 2 8 0 [0x00, 0x01, 0x02, 0x04, 0x03, 0x04] [] 3 1 [0x010101FF, 0x020202FF, 0, 0]

/-- The same at its first row. -/
def firstRow : State := running 2 2 8 0 [0x00, 0x01, 0x02, 0x04, 0x03, 0x04] [] 0 0 [0, 0, 0, 0]

/-- A 5 by 3 interlaced grey image in a running decode, at the last row of pass `k`. -/
def atPass (k : BitVec 3) (pw ph py : BitVec 32) : State :=
  { configured 5 3 8 0 1 [0x01, 0x40, 0x01, 0x02] [] with
    run := .run, pass := k, pw := pw, ph := ph, py := py, fb := memNumber 0 (List.replicate 15 0) }

/-- An indexed row of four pixels at depth 2 with indices 0, 1, 2, 3 and a palette of `n` entries. -/
def indexedRow (n : Nat) : State := running 4 1 2 3 [0x02, 0x1B] (List.replicate n 0x112233) 0 0 [0, 0, 0, 0]

/-- An idle machine with a host move to come. -/
def withMove (op : HostOp) : State := { State.reset with host := [op] }

theorem lastRow_running : RunningOk lastRow := by
  unfold RunningOk ConfigOk FrameWritten PositionOk
  decide

theorem indexedRow_running : RunningOk (indexedRow 4) := by
  unfold RunningOk ConfigOk FrameWritten PositionOk
  decide

theorem indexedRow3_running : RunningOk (indexedRow 3) := by
  unfold RunningOk ConfigOk FrameWritten PositionOk
  decide

theorem atPass_sequenced (k : BitVec 3) (pw ph py : BitVec 32)
    (h : (k, pw, ph, py) = (2, 1, 1, 0) ∨ (k, pw, ph, py) = (6, 2, 2, 0) ∨ (k, pw, ph, py) = (7, 5, 1, 0)) :
    (atPass k pw ph py).run = .run ∧ ConfigOk (atPass k pw ph py) ∧ PositionOk (atPass k pw ph py) ∧
      tableOk (atPass k pw ph py).params.passTable = true := by
  unfold ConfigOk PositionOk
  rcases h with h | h | h <;> cases h <;> decide

theorem witness_DecodeEncodeRoundTrip : encode .fPaeth = some (.record 4) ∧ decode (.record 4) = .ok .fPaeth ∧
    decode (.ctrl 3) = .ok .cClear := ⟨rfl, rfl, rfl⟩

theorem witness_ReservedCodesRejected : 4 < (5 : Byte).toNat ∧ 4 < (255 : Byte).toNat ∧ (0 : Byte).toNat = 0 ∧
    3 < (4 : Byte).toNat := by decide

theorem witness_StepRunsDecodedInstruction_record : lastRow.resetIn = none ∧ lastRow.run = .run ∧
    lastRow.cur < lastRow.inLen ∧ memRead lastRow.input lastRow.cur = some 4 ∧ decode (.record 4) = .ok .fPaeth :=
  ⟨rfl, rfl, by decide, by decide, rfl⟩

theorem witness_StepRunsDecodedInstruction_command : (withMove (.writeReg 0 0x101)).resetIn = none ∧
    (withMove (.writeReg 0 0x101)).run ≠ .run ∧ (withMove (.writeReg 0 0x101)).host = [.writeReg 0 0x101] ∧
    decode (.ctrl (BitVec.ofNat 8 0x101)) = .ok .cDecode := ⟨rfl, by decide, rfl, rfl⟩

theorem witness_IdleMachineStaysPut : State.reset.resetIn = none ∧ State.reset.run ≠ .run ∧ State.reset.host = [] :=
  ⟨rfl, by decide, rfl⟩

/-- Pass 6 has a second row. -/
theorem witness_SequencerVisitsRowsThenPasses_row :
    (atPass 6 2 2 0).py.toNat + 1 < (atPass 6 2 2 0).ph.toNat := by decide

/-- Pass 3 is empty, so pass 4 follows pass 2. -/
theorem witness_SequencerVisitsRowsThenPasses_pass :
    (atPass 2 1 1 0).py.toNat + 1 = (atPass 2 1 1 0).ph.toNat ∧ 4 ∈ allPasses (atPass 2 1 1 0).ilace ∧
      1 ≤ passWidth defaultPassTable 4 5 ∧ 1 ≤ passHeight defaultPassTable 4 3 ∧
      ∀ j ∈ allPasses (atPass 2 1 1 0).ilace, (atPass 2 1 1 0).pass.toNat < j → j < 4 →
        passWidth defaultPassTable j 5 = 0 ∨ passHeight defaultPassTable j 3 = 0 := by decide

/-- Nothing follows pass 7. -/
theorem witness_SequencerVisitsRowsThenPasses_end :
    (atPass 7 5 1 0).py.toNat + 1 = (atPass 7 5 1 0).ph.toNat ∧
      ∀ j ∈ allPasses (atPass 7 5 1 0).ilace, (atPass 7 5 1 0).pass.toNat < j →
        passWidth defaultPassTable j 5 = 0 ∨ passHeight defaultPassTable j 3 = 0 := by decide

theorem witness_ResetTakenInAnyState : ({ lastRow with resetIn := some 0 } : State).resetIn = some 0 := rfl

theorem witness_ExtractTakesSample : 8 ∈ [1, 2, 4, 8] ∧ memRead lastRow.input (0 + 5 / (8 / 8)) = some 0x04 ∧
    1 ∈ [1, 2, 4, 8] ∧ memRead lastRow.input (0 + 47 / (8 / 1)) = some 0x04 ∧
    memRead lastRow.input (0 + 48 / (8 / 1)) = none := by decide

theorem witness_SamplesLieInTheirRow : lastRow.depth.toNat ∈ [1, 2, 4, 8] ∧
    1 < lastRow.pw.toNat * samplesPerPixel lastRow.ctype ∧
    (lastRow.ctype, 1) ∈ [((0 : Byte), 1), (2, 3), (3, 1), (4, 2), (6, 4)] := by decide

/-- A table that has a lane value for sample 1 of a bit and none for sample 2 of two bits. -/
theorem witness_WidenDefaultIsZeroExtension : let t : WidenTable := ⟨[0x00, 0xFF], [0x00, 0x55], []⟩
    t.d1[(1 : Byte).toNat]? = some 0xFF ∧ t.d2[(2 : Byte).toNat]? = none ∧ t.d4[(15 : Byte).toNat]? = none := by decide

/-- A record of colour type 6, whose samples serve every colour type. -/
theorem witness_ComposeByColourType (ctype : Byte) (spp : Nat)
    (h : (ctype, spp) ∈ [((0 : Byte), 1), (2, 3), (4, 2), (6, 4)]) :
    let s := configured 1 1 8 ctype 0 [0x00, 0x01, 0x02, 0x03, 0x04] []
    s.depth.toNat ∈ [1, 2, 4, 8] ∧ (s.ctype, spp) ∈ [((0 : Byte), 1), (2, 3), (4, 2), (6, 4)] ∧
      ∀ c < spp, extractSample s (s.cur + 1) s.depth.toNat (0 * spp + c) = .ok (BitVec.ofNat 8 (c + 1)) := by
  simp only [List.mem_cons, Prod.mk.injEq, List.mem_nil_iff, or_false] at h
  rcases h with ⟨rfl, rfl⟩ | ⟨rfl, rfl⟩ | ⟨rfl, rfl⟩ | ⟨rfl, rfl⟩ <;>
    refine ⟨by decide, by decide, fun c hc => ?_⟩ <;> interval_cases c <;> rfl

/-- Index 2 is the last below PAL_LEN 3, index 3 the first that is not. -/
theorem witness_PaletteLooksUpOrFaults : (indexedRow 3).depth.toNat ∈ [1, 2, 4, 8] ∧
    extractSample (indexedRow 3) ((indexedRow 3).cur + 1) (indexedRow 3).depth.toNat 2 = .ok 2 ∧
    (2 : Byte).toNat < (indexedRow 3).palLen.toNat ∧ memRead (indexedRow 3).pal 2 = some 0x112233 ∧
    extractSample (indexedRow 3) ((indexedRow 3).cur + 1) (indexedRow 3).depth.toNat 3 = .ok 3 ∧
    (indexedRow 3).palLen.toNat ≤ (3 : Byte).toNat ∧ 3 < 2 ^ 32 :=
  ⟨by decide, rfl, by decide, by decide, rfl, by decide, by decide⟩

/-- PAL_LEN counts an entry that the host never wrote. -/
theorem witness_PaletteLooksUpOrFaults_missing :
    extractSample { indexedRow 3 with palLen := 4 } 1 2 3 = .ok 3 ∧
      (3 : Byte).toNat < ({ indexedRow 3 with palLen := 4 } : State).palLen.toNat ∧
      memRead ({ indexedRow 3 with palLen := 4 } : State).pal 3 = none := ⟨rfl, by decide, by decide⟩

/-- The last channel of a colour type 6 pixel is missing, then the first byte of an index. -/
theorem witness_UnpackerStuckOnMissingByte : let s := configured 1 1 8 6 0 [0x00, 0x01, 0x02, 0x03] []
    s.depth.toNat ∈ [1, 2, 4, 8] ∧ (s.ctype, 4) ∈ [((0 : Byte), 1), (2, 3), (4, 2), (6, 4)] ∧ 3 < 4 ∧
    (∀ d < 3, (memRead s.input (s.cur + 1 + (0 * 4 + d) / (8 / s.depth.toNat))).isSome) ∧
    memRead s.input (s.cur + 1 + (0 * 4 + 3) / (8 / s.depth.toNat)) = none ∧
    memRead s.input (s.cur + 1 + 3 / (8 / s.depth.toNat)) = none := by decide

theorem witness_DimsAreCeilings : 0 ≤ 7 ∧ 7 ≤ 7 ∧ tableOk State.reset.params.passTable = true ∧
    (geometryOf State.reset.params.passTable 7).y0 = 1 ∧ (geometryOf State.reset.params.passTable 2).x0 = 4 := by decide

theorem witness_XformIsOffsetPlusStride : 0 ≤ 7 ∧ 7 ≤ 7 ∧ geometryOf State.reset.params.passTable 0 = ⟨0, 0, 1, 1⟩ ∧
    geometryOf State.reset.params.passTable 7 = ⟨0, 1, 1, 2⟩ := by decide

theorem witness_PassAddressesInRange : tableOk defaultPassTable = true ∧ 1 < passWidth defaultPassTable 6 5 ∧
    1 < passHeight defaultPassTable 6 3 := by decide

theorem witness_PassesPartitionImage : tableOk defaultPassTable = true ∧ 4 < 5 ∧ 2 < 3 := by decide

theorem witness_FilteredRecordReconstructsRow : lastRow.run = .run ∧ RunningOk lastRow ∧ ctIndexed lastRow.ctype = false ∧
    lastRow.cur + 1 + rowBytes lastRow ≤ lastRow.inLen ∧ StreamWritten lastRow := by
  refine ⟨rfl, lastRow_running, by decide, by decide, ?_⟩
  unfold StreamWritten
  decide

theorem indexedRow_written : StreamWritten (indexedRow 4) ∧ PaletteWritten (indexedRow 4) ∧ StreamWritten (indexedRow 3) ∧
    PaletteWritten (indexedRow 3) := by
  unfold StreamWritten PaletteWritten
  decide

theorem indexedRow_samples (n x : Nat) (i : Byte) (hn : n = 3 ∨ n = 4) (hx : x < 4)
    (h : extractSample (indexedRow n) ((indexedRow n).cur + 1) (indexedRow n).depth.toNat x = .ok i) : i.toNat = x := by
  have e : ∀ y < 4, extractSample (indexedRow n) ((indexedRow n).cur + 1) (indexedRow n).depth.toNat y =
      .ok (BitVec.ofNat 8 y) := fun y hy => by
    rcases hn with rfl | rfl <;> interval_cases y <;> rfl
  rw [← Except.ok.inj ((e x hx).symm.trans h)]
  interval_cases x <;> rfl

/-- Four palette entries: every index is in range. -/
theorem witness_IndexedRecordIgnoresFilter : (indexedRow 4).run = .run ∧ RunningOk (indexedRow 4) ∧
    ctIndexed (indexedRow 4).ctype = true ∧ (indexedRow 4).cur + 1 + rowBytes (indexedRow 4) ≤ (indexedRow 4).inLen ∧
    StreamWritten (indexedRow 4) ∧ PaletteWritten (indexedRow 4) ∧
    ∀ x < (indexedRow 4).pw.toNat, ∀ i,
      extractSample (indexedRow 4) ((indexedRow 4).cur + 1) (indexedRow 4).depth.toNat x = .ok i →
      i.toNat < (indexedRow 4).palLen.toNat :=
  ⟨rfl, indexedRow_running, by decide, by decide, indexedRow_written.1, indexedRow_written.2.1, fun x hx i hi => by
    rw [indexedRow_samples 4 x i (.inr rfl) hx hi]
    exact hx⟩

/-- Three palette entries: the fourth pixel is the first whose index is out of range. -/
theorem witness_PaletteFaultAtLeftmostPixel : (indexedRow 3).run = .run ∧ RunningOk (indexedRow 3) ∧
    ctIndexed (indexedRow 3).ctype = true ∧ (indexedRow 3).cur + 1 + rowBytes (indexedRow 3) ≤ (indexedRow 3).inLen ∧
    StreamWritten (indexedRow 3) ∧ PaletteWritten (indexedRow 3) ∧ 3 < (indexedRow 3).pw.toNat ∧
    extractSample (indexedRow 3) ((indexedRow 3).cur + 1) (indexedRow 3).depth.toNat 3 = .ok 3 ∧
    (indexedRow 3).palLen.toNat ≤ (3 : Byte).toNat ∧
    ∀ y < 3, ∀ j, extractSample (indexedRow 3) ((indexedRow 3).cur + 1) (indexedRow 3).depth.toNat y = .ok j →
      j.toNat < (indexedRow 3).palLen.toNat :=
  ⟨rfl, indexedRow3_running, by decide, by decide, indexedRow_written.2.2.1, indexedRow_written.2.2.2, by decide, rfl,
    by decide, fun y hy j hj => by
      rw [indexedRow_samples 3 y j (.inl rfl) (by omega) hj]
      exact hy⟩

/-- One byte short. -/
theorem witness_ShortRowFaultsTruncated : let s := { lastRow with inLen := 5 }
    s.run = .run ∧ ConfigOk s ∧ PositionOk s ∧ s.inLen < s.cur + 1 + rowBytes s := by
  unfold ConfigOk PositionOk
  decide

/-- CUR at IN_LEN; CUR one below it with the byte missing. -/
theorem witness_FetchFaultsTruncated : firstRow.resetIn = none ∧ firstRow.run = .run ∧
    ({ firstRow with cur := 6 } : State).inLen ≤ ({ firstRow with cur := 6 } : State).cur ∧
    ({ firstRow with cur := 6, inLen := 7 } : State).cur < ({ firstRow with cur := 6, inLen := 7 } : State).inLen ∧
    memRead ({ firstRow with cur := 6, inLen := 7 } : State).input 6 = none := by decide

/-- Filter type 5, the stream ending right after it. -/
theorem witness_IllegalFilterTypeFaults : let s := running 1 1 8 0 [0x05] [] 0 0 [0]
    s.resetIn = none ∧ s.run = .run ∧ s.cur < s.inLen ∧ memRead s.input s.cur = some 5 ∧ 5 ≤ (5 : Byte).toNat := by decide

/-- Each check failing alone, at the end of its range where it has one. -/
theorem witness_DecodeReportsFirstFailedCheck : State.reset.run = .idle ∧
    (configured 1 0 8 0 0 [] []).height.toNat = 0 ∧ (configured 1 1 16 0 0 [] []).depth.toNat ∉ [1, 2, 4, 8] ∧
    (configured 1 1 8 5 0 [] []).ctype.toNat ∉ [0, 2, 3, 4, 6] ∧ 1 < (configured 1 1 8 0 2 [] []).ilace.toNat ∧
    3 < (configured 2 2 8 0 0 [] []).width.toNat * (configured 2 2 8 0 0 [] []).height.toNat ∧
    ((List.range 7).map fun k => passWidth ⟨⟨0, 0, 8, 8⟩, ⟨0, 0, 8, 8⟩, ⟨0, 0, 8, 8⟩, ⟨0, 0, 8, 8⟩, ⟨0, 0, 8, 8⟩,
        ⟨0, 0, 8, 8⟩, ⟨0, 0, 8, 8⟩⟩ (k + 1) 1 * passHeight ⟨⟨0, 0, 8, 8⟩, ⟨0, 0, 8, 8⟩, ⟨0, 0, 8, 8⟩, ⟨0, 0, 8, 8⟩,
        ⟨0, 0, 8, 8⟩, ⟨0, 0, 8, 8⟩, ⟨0, 0, 8, 8⟩⟩ (k + 1) 1).sum ≠ 1 * 1 := by decide

theorem witness_DecodeStartsAtFirstPass : let s := configured 5 3 8 0 1 [] []
    s.run = .idle ∧ ConfigOk s ∧ tableOk s.params.passTable = true ∧
      (s.ilace = 1 → selfCheckSum s.params.passTable s.width.toNat s.height.toNat = area s) := by
  unfold ConfigOk
  decide

/-- An image ready to be filtered, in spaces that hold it and its stream exactly. -/
def imageInFb : State :=
  { configured 2 1 0 0 0 [] [] with
    fb := memNumber 0 [0x10203040, 0x11223344]
    params := { State.reset.params with fbCapacity := some 2, outCapacity := some 9 } }

theorem witness_EncsubWritesFilteredStream : imageInFb.run = .idle ∧ imageInFb.width ≠ 0 ∧ imageInFb.height ≠ 0 ∧
    FrameWritten imageInFb ∧ fits imageInFb.params.fbCapacity (imageInFb.width.toNat * imageInFb.height.toNat) = true ∧
    fits imageInFb.params.outCapacity (imageInFb.height.toNat * (1 + 4 * imageInFb.width.toNat)) = true := by
  unfold FrameWritten
  decide

/-- No width, FB one pixel short, OUT one byte short. -/
theorem witness_EncsubFaultsEmptyOrTooLarge : imageInFb.run = .idle ∧ IdleOk imageInFb ∧
    IdleOk { imageInFb with width := 0 } ∧ ({ imageInFb with width := 0 } : State).width = 0 ∧
    fits (some 1) (imageInFb.width.toNat * imageInFb.height.toNat) = false ∧
    fits (some 8) (imageInFb.height.toNat * (1 + 4 * imageInFb.width.toNat)) = false := by
  unfold IdleOk
  decide

theorem witness_EncsubStuckOnMissingPixel : let s := { imageInFb with fb := [(0, 7)] }
    s.run = .idle ∧ s.width ≠ 0 ∧ s.height ≠ 0 ∧ fits s.params.fbCapacity (s.width.toNat * s.height.toNat) = true ∧
    fits s.params.outCapacity (s.height.toNat * (1 + 4 * s.width.toNat)) = true ∧ 1 < area s ∧ memRead s.fb 1 = none ∧
    ∀ b < 1, (memRead s.fb b).isSome := by decide

theorem witness_ClearDiscardsCallState : ({ imageInFb with run := .fault } : State).run ≠ .run := by decide

/-- Codes 0, 1, 3, 4 in DONE. -/
theorem witness_CommandAcceptance (v : Nat) : let s := { withMove (.writeReg 0 v) with run := .done }
    s.resetIn = none ∧ s.run ≠ .run ∧ s.run ≠ .idle ∧ s.host = [.writeReg 0 v] ∧
      (257 % 256 = 1 ∧ 3 % 256 = 3 ∧ 0 % 256 = 0 ∧ 3 < 4 % 256) :=
  ⟨rfl, RunState.noConfusion, RunState.noConfusion, rfl, by decide⟩

/-- One state outside each domain: a row past the pass, a running command, depth 3, colour type 3, pass 8. -/
theorem witness_OutOfDomainRefused : (running 1 1 8 0 [] [] 0 1 []).ph.toNat ≤ (running 1 1 8 0 [] [] 0 1 []).py.toNat ∧
    firstRow.run = .run ∧ 3 ∉ [1, 2, 4, 8] ∧ (configured 1 1 3 0 0 [] []).depth.toNat ∉ [1, 2, 4, 8] ∧
    (indexedRow 4).depth.toNat ∈ [1, 2, 4, 8] ∧ (indexedRow 4).ctype.toNat ∉ [0, 2, 4, 6] ∧ 7 < 8 := by decide

/-- PAL_LEN 256 and 257, 100 entries and 101, IN_LEN at a capacity and above it. -/
theorem witness_HostWritesRegistersInIdle (n v : Nat) :
    (withMove (.writeReg n v)).resetIn = none ∧ (withMove (.writeReg n v)).run = .idle ∧
      (withMove (.writeReg n v)).host = [.writeReg n v] ∧ 256 ≤ (withMove (.writeReg n v)).params.palEntries ∧
      256 < 257 ∧ ({ State.reset.params with palEntries := 100 } : Params).palEntries < 101 ∧
      fits (some 9) 9 = true ∧ fits (some 9) 10 = false :=
  ⟨rfl, rfl, rfl, le_refl 256, by decide⟩

theorem witness_HostReadsRegisters (n : Nat) : let s := { withMove (.readReg n) with run := .fault }
    s.resetIn = none ∧ s.run ≠ .run ∧ s.host = [.readReg n] := ⟨rfl, RunState.noConfusion, rfl⟩

/-- The last address of a space of two units and the first beyond it. -/
theorem witness_HostWritesMemoryInIdle : (withMove (.writeFb 1 7)).resetIn = none ∧ (withMove (.writeFb 1 7)).run = .idle ∧
    (withMove (.writeFb 1 7)).host = [.writeFb 1 7] ∧ (withMove (.writeIn 1 7)).host = [.writeIn 1 7] ∧
    (withMove (.writePal 255 7)).host = [.writePal 255 7] ∧ 255 < State.reset.params.palEntries ∧
    255 < 256 ∧ State.reset.params.palEntries ≤ 256 ∧ fits (some 2) (1 + 1) = true ∧ fits (some 2) (2 + 1) = false := by decide

theorem witness_HostWritesRefusedOutsideIdle : let s := { withMove (.writeReg 1 0) with run := .fault }
    s.resetIn = none ∧ (s.run = .done ∨ s.run = .fault) ∧ s.host = [.writeReg 1 0] := by decide

/-- An address that holds a value and one that does not, in each space. -/
theorem witness_HostReadsMemory : let s := { configured 1 1 8 3 0 [1] [2] with
      run := .done, fb := [(0, 3)], out := [(0, 4)], host := [.read .fb 0] }
    s.resetIn = none ∧ s.run ≠ .run ∧ s.host = [.read .fb 0] ∧ fits s.params.fbCapacity (0 + 1) = true ∧
      memRead s.fb 0 = some 3 ∧ memRead s.fb 1 = none ∧ memRead s.out 0 = some 4 ∧ memRead s.out 1 = none ∧
      memRead s.input 0 = some 1 ∧ memRead s.input 1 = none ∧ memRead s.pal 0 = some 2 ∧ memRead s.pal 1 = none ∧
      1 < s.params.palEntries ∧ 1 < 256 := by decide

/-- A step of a running decode, for the invariants. -/
theorem witness_StepKeepsInvariants : memoryWf lastRow = true ∧ FaultRecordOk lastRow ∧ RunningOk lastRow ∧
    ∃ t, step lastRow = .next t := by
  refine ⟨by decide, ?_, lastRow_running, _, rfl⟩
  unfold FaultRecordOk
  decide

/-- A host write in IDLE, and C.CLEAR. -/
theorem witness_StepKeepsIdleCleared : IdleOk (withMove (.writeReg 6 1)) ∧
    IdleOk { withMove (.writeReg 0 3) with run := .done, cur := 5, warn := 1 } ∧
    ∃ t u, step (withMove (.writeReg 6 1)) = .next t ∧
      step { withMove (.writeReg 0 3) with run := .done, cur := 5, warn := 1 } = .next u := by
  refine ⟨?_, ?_, _, _, rfl, rfl⟩ <;> unfold IdleOk <;> decide

theorem witness_RunningDecode : lastRow.run = .run ∧ lastRow.resetIn = none ∧ RunningOk lastRow ∧ StreamWritten lastRow ∧
    PaletteWritten lastRow ∧ ∃ t, step lastRow = .next t := by
  refine ⟨rfl, rfl, lastRow_running, ?_, ?_, _, rfl⟩
  · unfold StreamWritten
    decide
  · unfold PaletteWritten
    decide

/-- A step that leaves DONE and one that enters RUN. -/
theorem witness_StateTransitions :
    ∃ t u, step { State.reset with run := .done, host := [.writeReg 0 3] } = .next t ∧ t.run = .idle ∧
      step { configured 1 1 8 0 0 [] [] with host := [.writeReg 0 1] } = .next u ∧ u.run = .run :=
  ⟨_, _, rfl, rfl, rfl, rfl⟩

/-- A one-pixel grey image and its whole stream. -/
def greyCall : State := configured 1 1 8 0 0 [0x00, 0x7F] []

theorem witness_DecodeWithoutAlphaIsOpaque : greyCall.run = .idle ∧ greyCall.resetIn = none ∧ greyCall.host = [] ∧
    tableOk greyCall.params.passTable = true ∧ ctAlpha greyCall.ctype = false ∧
    ∃ v t, exec .cDecode greyCall = .next v ∧ stepN 1 v = .next t ∧ t.run = .done :=
  ⟨rfl, rfl, rfl, by decide, by decide, _, _, rfl, rfl, rfl⟩

/-- The stream that C.ENCSUB writes for `imageInFb`, as the call that reads it back. -/
def readBack : State := configured 2 1 8 6 0 [0x01, 0x10, 0x20, 0x30, 0x40, 0x01, 0x02, 0x03, 0x04] []

theorem witness_EncodeThenDecodeGivesImageBack : ∃ t, imageInFb.run = .idle ∧ exec .cEncsub imageInFb = .next t ∧
    t.run = .done ∧ readBack.run = .idle ∧ readBack.resetIn = none ∧ readBack.width = imageInFb.width ∧
    readBack.height = imageInFb.height ∧ readBack.depth = 8 ∧ readBack.ctype = 6 ∧ readBack.ilace = 0 ∧
    fits readBack.params.fbCapacity (area imageInFb) = true ∧ readBack.inLen = t.outLen ∧
    ∀ a < t.outLen, memRead readBack.input a = memRead t.out a := by
  refine ⟨_, rfl, rfl, rfl, rfl, rfl, rfl, rfl, rfl, rfl, rfl, by decide, rfl, ?_⟩
  decide

/-- Two machines that agree on the call and on nothing else. -/
theorem witness_DecodeDependsOnCallOnly : let s := greyCall
    let u := { greyCall with fb := [(0, 5)], warn := 1, out := [(3, 1)] }
    s.run = .idle ∧ u.run = .idle ∧ s.resetIn = none ∧ u.resetIn = none ∧ s.host = [] ∧ u.host = [] ∧
    s.params = u.params ∧ tableOk s.params.passTable = true ∧ s.width = u.width ∧ s.inLen = u.inLen ∧ StreamWritten s ∧
    PaletteWritten s ∧ (∀ a < s.inLen, memRead s.input a = memRead u.input a) ∧
    ∃ v w, exec .cDecode s = .next v ∧ exec .cDecode u = .next w := by
  refine ⟨rfl, rfl, rfl, rfl, rfl, rfl, rfl, by decide, rfl, rfl, ?_, ?_, fun _ _ => rfl, _, _, rfl, rfl⟩
  · unfold StreamWritten
    decide
  · unfold PaletteWritten
    decide

end Sys2Proof.Tests
end

section
/-! PROOFS. The scope of the model (00_scope.md): a step keeps the parameters of R6, and a machine with nothing to do stays as
it is (R11). -/

namespace Sys2Proof.Machine

/-! ### What each part of a step does to the parameters -/

@[simp] theorem recordWarning_params (s : State) : (recordWarning s).params = s.params := by
  unfold recordWarning
  split
  · exact warnIdxFilt_params _
  · rfl

@[simp] theorem enterPass_params (s : State) (ks : List Nat) : (enterPass s ks).params = s.params := by
  rcases enterPass_cases s ks with ⟨q, m, n, h⟩ | ⟨k, -, h, -, -⟩
  · rw [h, finish_params]
  · simp [h]

@[simp] theorem nextRecord_params (s : State) : (nextRecord s).params = s.params := by
  unfold nextRecord
  split
  · rfl
  · exact enterPass_params _ _

theorem fetch_faulted_params {s t : State} (h : fetch s = .faulted t) : t.params = s.params := by
  rcases fetch_faulted h with ⟨-, rfl⟩ | ⟨b, -, rfl⟩
  · rw [takeFault_params, freeFilterType_params]
  · rw [takeFault_params]

theorem recordStep_params {f : Filter} {s t : State} (h : recordStep f s = .next t) : t.params = s.params := by
  have hpw : 0 + s.pw.toNat ≤ 2 ^ 32 := by have := s.pw.isLt; omega
  obtain ⟨-, ⟨-, rfl⟩ | ⟨-, u, hu, rfl⟩ | ⟨-, ht⟩⟩ := recordStep_next h
  · rw [takeFault_params]
  · obtain ⟨hframe, -⟩ := pixelLoop_go hu hpw
    rw [endRecord_params, hframe, recordWarning_params]
  · obtain ⟨-, u, i, hframe, rfl, -⟩ := pixelLoop_ended ht hpw
    rw [takeFault_params, hframe, recordWarning_params]

theorem stepRecord_params {s t : State} (h : stepRecord s = .next t) : t.params = s.params := by
  rcases stepRecord_next h with hf | ⟨f, u, -, -, hr, rfl⟩
  · exact fetch_faulted_params hf
  · have hu : u.params = s.params := recordStep_params hr
    split
    · rw [nextRecord_params, hu]
    · exact hu

theorem hostMove_settled_params {op : HostOp} {s t : State} (h : hostMove op s = .settled t) : t.params = s.params := by
  rcases hostMove_settled h with ⟨v, rfl⟩ |
    ⟨-, ⟨w, n, d, c, l, p, m, rfl⟩ | ⟨a, v, rfl⟩ | ⟨a, v, rfl⟩ | ⟨a, v, rfl⟩⟩ <;> rfl

theorem execCDecode_params {s t : State} (h : execCDecode s = .next t) : t.params = s.params := by
  obtain ⟨-, ⟨e, info, -, rfl⟩ | ⟨-, rfl⟩⟩ := execCDecode_next h
  · rw [takeFault_params, beginDecode_params]
  · rw [enterPass_params, zeroFill_params, beginDecode_params]

theorem execCEncsub_params {s t : State} (h : execCEncsub s = .next t) : t.params = s.params := by
  obtain ⟨-, ⟨e, rfl⟩ | ⟨bytes, -, rfl⟩⟩ := execCEncsub_next h
  · rw [takeFault_params, beginEncode_params]
  · rw [finish_params, beginEncode_params]

/-- C.CLEAR, where it is accepted, is the one exit of 60_exceptions.md R254. -/
theorem execCClear_next {s t : State} (h : execCClear s = .next t) : s.run ≠ .run ∧ t = clearCall s := by
  unfold execCClear at h
  split at h
  · cases h
  · cases h
    exact ⟨‹_›, rfl⟩

theorem execCClear_params {s t : State} (h : execCClear s = .next t) : t.params = s.params := by
  obtain ⟨-, rfl⟩ := execCClear_next h
  exact clearCall_params s

theorem stepHost_params {s t : State} (h : stepHost s = .next t) : t.params = s.params := by
  rcases stepHost_next h with ⟨-, rfl⟩ | ⟨op, rest, -, hm | ⟨i, hm, hi⟩⟩
  · rfl
  · exact (hostMove_settled_params hm :)
  · obtain ⟨-, v, -, -, ⟨rfl, -⟩ | ⟨rfl, -⟩ | ⟨rfl, -⟩⟩ := hostMove_command hm
    · exact (execCDecode_params hi :)
    · exact (execCEncsub_params hi :)
    · exact (execCClear_params hi :)

theorem step_params {s t : State} (h : step s = .next t) : t.params = s.params := by
  rcases step_next h with ⟨-, rfl⟩ | ⟨-, r, -, ⟨-, hs⟩ | ⟨-, hs⟩⟩
  · exact applyReset_params s
  · exact (stepRecord_params hs :)
  · exact (stepHost_params hs :)

/-! ### Which part of the machine takes the step -/

theorem step_of_resetIn_none {s : State} (h : s.resetIn = none) : step s = stepOn s := by
  unfold step
  rw [h]

theorem stepOn_of_not_run {s : State} (h : s.run ≠ .run) : stepOn s = stepHost s := if_neg h

theorem stepHost_of_host_nil {s : State} (h : s.host = []) : stepHost s = .next s := by
  unfold stepHost
  rw [h]

/-! ### The statements -/

/-- Settles O53: the reset input, a record and a host move, the three things a step can be, each keep the parameters. -/
theorem parametersNeverChange : Obligations.ParametersNeverChange := by
  unfold Obligations.ParametersNeverChange
  exact fun _ _ => step_params

/-- Settles O5: with no reset input and no command running the step is the host's, and an empty list of moves leaves it
nothing to do. -/
theorem idleMachineStaysPut : Obligations.IdleMachineStaysPut := by
  unfold Obligations.IdleMachineStaysPut
  intro s hreset hrun hhost
  calc step s = stepOn s := step_of_resetIn_none hreset
    _ = stepHost s := stepOn_of_not_run hrun
    _ = .next s := stepHost_of_host_nil hhost

end Sys2Proof.Machine
end

section
/-! PROOFS. The state (10_state.md): what each part of a step can change of it, as one frame for each part, and from these
frames the invariants of the fault record, of IDLE and of a running decode, the transitions of STATE, and the register file
of the host. -/

namespace Sys2Proof.Machine

/-! ### Frames: what the record, the sequencer and the host can change -/

/-- `u` is `s` in the middle of a record: the latches, PX, FT, the trace and the counter of free values may have changed, WARN by
IDXFILT only, and FB at the pixels of the current row only (42_scanline_reconstructor.md R160). -/
structure RecordFrame (s u : State) : Prop where
  eq : u = { s with
    latches := u.latches, px := u.px, ft := u.ft, warn := u.warn, trace := u.trace, fb := u.fb, seed := u.seed }
  warn : u.warn = s.warn ∨ u.warn = s.warn ||| warnIdxFiltBit
  fb : ∀ a, ¬ InRow s a → memRead u.fb a = memRead s.fb a

/-- `t` is `s` after the sequencer has moved on: apart from the position registers and latches only STATE may have changed, to
DONE (43_interlace_sequencer.md R207). -/
structure SequencerFrame (s t : State) : Prop where
  eq : t = { s with
    latches := t.latches, pass := t.pass, pw := t.pw, ph := t.ph, py := t.py, px := t.px, ft := t.ft, run := t.run
    seed := t.seed }
  run : t.run = s.run ∨ t.run = .done

/-- `t` is `s` after a host move that is no command: only what the host itself reads and writes has changed, and what is still
to come of its moves and of the reset input (10_state.md R35, R36, 20_memory.md R60). -/
def HostFrame (s t : State) : Prop :=
  t = { s with
    resetIn := t.resetIn, host := t.host, hostData := t.hostData, width := t.width, height := t.height, depth := t.depth
    ctype := t.ctype, ilace := t.ilace, palLen := t.palLen, inLen := t.inLen, pal := t.pal, input := t.input, fb := t.fb }

/-- The fetch of a record writes PX and FT only (42_scanline_reconstructor.md R160). -/
theorem recordFrame_start (s : State) (b : Byte) : RecordFrame s { s with px := 0, ft := b } :=
  ⟨rfl, .inl rfl, fun _ _ => rfl⟩

theorem recordFrame_freeFilterType (s : State) : RecordFrame s (freeFilterType { s with px := 0 }) :=
  ⟨rfl, .inl rfl, fun _ _ => rfl⟩

/-- The warning of a record sets IDXFILT and adds to the trace, nothing else (60_exceptions.md R255). -/
theorem recordWarning_frame (f : Filter) (s : State) :
    RecordFrame s (recordWarning { s with px := 0, ft := filterCode f }) := by
  unfold recordWarning
  split
  · exact ⟨rfl, .inr rfl, fun _ _ => rfl⟩
  · exact recordFrame_start s _

theorem recordWarning_fb (s : State) : (recordWarning s).fb = s.fb := by
  unfold recordWarning
  split
  · exact warnIdxFilt_fb s
  · rfl

/-- Writes of the row's pixels keep a frame that the start of the pixel loop has. -/
theorem RecordFrame.pixels {s v u : State} (h : RecordFrame s v)
    (heq : u = { v with latches := u.latches, px := u.px, fb := u.fb })
    (hfb : ∀ a, (∀ x, 0 ≤ x → x < 0 + s.pw.toNat → a ≠ lin v x v.py.toNat) → memRead u.fb a = memRead v.fb a) :
    RecordFrame s u where
  eq := by rw [heq, h.eq]
  warn := by rw [heq]; exact h.warn
  fb a ha := by
    rw [hfb a fun x _ hx hax => ha ⟨x, by omega, by rw [hax, h.eq]; rfl⟩, h.fb a ha]

/-- What a record step does: a fault in the middle of the record, or the row and then the cursor's move past it. No pixel of FB
loses its value on the way to the end of the record. -/
theorem recordStep_frame {f : Filter} {s t : State} (h : recordStep f s = .next t) :
    ∃ u, RecordFrame s u ∧
      ((∃ e info, t = takeFault .decode e info u) ∨
       (t = endRecord (rowBytes s) u ∧ ∀ a, (memRead s.fb a).isSome → (memRead u.fb a).isSome)) := by
  have hpw : 0 + s.pw.toNat ≤ 2 ^ 32 := by have := s.pw.isLt; omega
  have hwarn := recordWarning_frame f s
  obtain ⟨-, ⟨-, rfl⟩ | ⟨-, u, hu, rfl⟩ | ⟨-, ht⟩⟩ := recordStep_next h
  · exact ⟨_, recordFrame_start s _, .inl ⟨_, _, rfl⟩⟩
  · obtain ⟨heq, hfb, hsome, -⟩ := pixelLoop_go hu hpw
    exact ⟨u, hwarn.pixels heq hfb, .inr ⟨rfl, fun a ha => hsome a (by rwa [recordWarning_fb])⟩⟩
  · obtain ⟨-, u, i, heq, rfl, hfb, -⟩ := pixelLoop_ended ht hpw
    exact ⟨u, hwarn.pixels heq hfb, .inl ⟨_, _, rfl⟩⟩

/-- What a step of a running decode does: a fault in the middle of the record, or the whole record and the sequencer's
move to the next one. -/
theorem stepRecord_frame {s t : State} (h : stepRecord s = .next t) (hrun : s.run = .run) :
    ∃ u, RecordFrame s u ∧
      ((∃ e info, t = takeFault .decode e info u) ∨
       (t = nextRecord (endRecord (rowBytes s) u) ∧ ∀ a, (memRead s.fb a).isSome → (memRead u.fb a).isSome)) := by
  rcases stepRecord_next h with hf | ⟨f, v, -, -, hr, rfl⟩
  · rcases fetch_faulted hf with ⟨-, rfl⟩ | ⟨b, -, rfl⟩
    · exact ⟨_, recordFrame_freeFilterType s, .inl ⟨_, _, rfl⟩⟩
    · exact ⟨_, recordFrame_start s b, .inl ⟨_, _, rfl⟩⟩
  · obtain ⟨u, hframe, hv⟩ := recordStep_frame hr
    refine ⟨u, ⟨hframe.eq, hframe.warn, hframe.fb⟩, ?_⟩
    rcases hv with ⟨e, info, rfl⟩ | ⟨rfl, hsome⟩
    · exact .inl ⟨e, info, by simp⟩
    · have hurun : u.run = .run := by rw [hframe.eq]; exact hrun
      exact .inr ⟨by rw [endRecord_run, if_pos hurun]; rfl, hsome⟩

theorem enterPass_frame (s : State) (ks : List Nat) : SequencerFrame s (enterPass s ks) := by
  rcases enterPass_cases s ks with ⟨q, m, n, h⟩ | ⟨k, -, h, -, -⟩ <;> rw [h]
  · exact ⟨rfl, .inr rfl⟩
  · exact ⟨rfl, .inl rfl⟩

theorem nextRecord_frame (s : State) : SequencerFrame s (nextRecord s) := by
  unfold nextRecord
  split
  · exact ⟨rfl, .inl rfl⟩
  · exact enterPass_frame _ _

/-- What a step does while no command runs: the block's own registers stay, or the host has written one of the three command
codes (30_encoding.md R105). -/
theorem stepHost_cases {s t : State} (h : stepHost s = .next t) :
    HostFrame s t ∨
    ∃ v rest, s.host = .writeReg 0 v :: rest ∧
      ((v % 256 = 1 ∧ execCDecode { s with host := rest } = .next t) ∨
       (v % 256 = 2 ∧ execCEncsub { s with host := rest } = .next t) ∨
       (v % 256 = 3 ∧ t = clearCall { s with host := rest })) := by
  rcases stepHost_next h with ⟨-, rfl⟩ | ⟨op, rest, hhost, hm | ⟨i, hm, hi⟩⟩
  · exact .inl rfl
  · rcases hostMove_settled hm with ⟨v, rfl⟩ |
      ⟨-, ⟨w, n, d, c, l, p, m, rfl⟩ | ⟨a, v, rfl⟩ | ⟨a, v, rfl⟩ | ⟨a, v, rfl⟩⟩ <;> exact .inl rfl
  · obtain ⟨-, v, rfl, -, hcode⟩ := hostMove_command hm
    refine .inr ⟨v, rest, hhost, ?_⟩
    rcases hcode with ⟨rfl, hv⟩ | ⟨rfl, hv⟩ | ⟨rfl, hv⟩
    · exact .inl ⟨hv, hi⟩
    · exact .inr (.inl ⟨hv, hi⟩)
    · exact .inr (.inr ⟨hv, (execCClear_next hi).2⟩)

/-! ### Which part of the machine takes the step -/

theorem stepOn_of_run {s : State} (h : s.run = .run) : stepOn s = stepRecord s := if_pos h

/-- A host move that settles is the whole of a step while no command runs. -/
theorem step_of_settled {s t : State} {op : HostOp} {rest : List HostOp} (hreset : s.resetIn = none) (hrun : s.run ≠ .run)
    (hhost : s.host = op :: rest) (hmove : hostMove op { s with host := rest } = .settled t) : step s = .next t := by
  rw [step_of_resetIn_none hreset, stepOn_of_not_run hrun]
  simp [stepHost, hhost, hmove]

/-- So is one that is refused. -/
theorem step_of_refuse {s : State} {op : HostOp} {rest : List HostOp} {r : Refusal} (hreset : s.resetIn = none)
    (hrun : s.run ≠ .run) (hhost : s.host = op :: rest) (hmove : hostMove op { s with host := rest } = .refuse r) :
    step s = .refused r := by
  rw [step_of_resetIn_none hreset, stepOn_of_not_run hrun]
  simp [stepHost, hhost, hmove]

/-! ### STATE after each part of a step -/

theorem stepRecord_run {s t : State} (h : stepRecord s = .next t) (hrun : s.run = .run) :
    t.run = .run ∨ t.run = .done ∨ t.run = .fault := by
  obtain ⟨u, hu, ⟨e, info, rfl⟩ | ⟨rfl, -⟩⟩ := stepRecord_frame h hrun
  · exact .inr (.inr (takeFault_run _ _ _ _))
  · have hurun : u.run = .run := by rw [hu.eq]; exact hrun
    rcases (nextRecord_frame (endRecord (rowBytes s) u)).run with h | h
    · exact .inl (by rw [h, endRecord_run, hurun])
    · exact .inr (.inl h)

theorem execCDecode_run {s t : State} (h : execCDecode s = .next t) :
    t.run = .run ∨ t.run = .done ∨ t.run = .fault := by
  obtain ⟨-, ⟨e, info, -, rfl⟩ | ⟨-, rfl⟩⟩ := execCDecode_next h
  · exact .inr (.inr (takeFault_run _ _ _ _))
  · rcases (enterPass_frame (zeroFill (beginDecode s)) (allPasses s.ilace)).run with h | h
    · exact .inl h
    · exact .inr (.inl h)

theorem execCEncsub_run {s t : State} (h : execCEncsub s = .next t) : t.run = .done ∨ t.run = .fault := by
  obtain ⟨-, ⟨e, rfl⟩ | ⟨bytes, -, rfl⟩⟩ := execCEncsub_next h
  · exact .inr (takeFault_run _ _ _ _)
  · exact .inl rfl

/-! ### The fault record and WARN -/

/-- A fault makes a well-formed record of itself (60_exceptions.md R240, R250). -/
theorem faultRecordOk_takeFault (c : Running) (e : Exc) (info : BitVec 32) {s : State} (hwarn : s.warn.toNat < 2) :
    FaultRecordOk (takeFault c e info s) := by
  refine ⟨fun h => absurd (takeFault_run c e info s) h, fun _ => ?_, ?_⟩
  · rw [takeFault_err]
    exact excCode_range e
  · rwa [takeFault_warn]

/-- Outside FAULT the record is well formed where it is 0. -/
theorem faultRecordOk_of_clear {s : State} (hrun : s.run ≠ .fault) (herr : s.err = 0) (hinfo : s.errInfo = 0)
    (hcur : s.errCur = 0) (hwarn : s.warn.toNat < 2) : FaultRecordOk s :=
  ⟨fun _ => ⟨herr, hinfo, hcur⟩, fun h => absurd h hrun, hwarn⟩

theorem RecordFrame.warn_lt {s u : State} (h : RecordFrame s u) (hs : s.warn.toNat < 2) : u.warn.toNat < 2 := by
  rcases h.warn with hw | hw
  · rwa [hw]
  · rw [hw, BitVec.toNat_or]
    exact Nat.or_lt_two_pow (n := 1) hs (by decide)

theorem SequencerFrame.faultRecordOk {s t : State} (h : SequencerFrame s t) (hrun : s.run ≠ .fault)
    (hs : FaultRecordOk s) : FaultRecordOk t := by
  obtain ⟨hclear, -, hwarn⟩ := hs
  obtain ⟨herr, hinfo, hcur⟩ := hclear hrun
  have htrun : t.run ≠ .fault := by
    rcases h.run with h | h <;> simp [h, hrun]
  apply faultRecordOk_of_clear htrun <;> rw [h.eq] <;> assumption

theorem stepRecord_keeps_faultRecordOk {s t : State} (h : stepRecord s = .next t) (hrun : s.run = .run)
    (hs : FaultRecordOk s) : FaultRecordOk t := by
  obtain ⟨hclear, -, hwarn⟩ := hs
  obtain ⟨u, hu, ⟨e, info, rfl⟩ | ⟨rfl, -⟩⟩ := stepRecord_frame h hrun
  · exact faultRecordOk_takeFault _ _ _ (hu.warn_lt hwarn)
  · have hurun : u.run ≠ .fault := by rw [hu.eq]; simp [hrun]
    obtain ⟨herr, hinfo, hcur⟩ := hclear (by simp [hrun])
    have hend : FaultRecordOk (endRecord (rowBytes s) u) := by
      refine faultRecordOk_of_clear hurun ?_ ?_ ?_ (hu.warn_lt hwarn) <;> rw [hu.eq] <;> assumption
    exact (nextRecord_frame _).faultRecordOk hurun hend

theorem execCDecode_faultRecordOk {s t : State} (h : execCDecode s = .next t) : FaultRecordOk t := by
  obtain ⟨-, ⟨e, info, -, rfl⟩ | ⟨-, rfl⟩⟩ := execCDecode_next h
  · exact faultRecordOk_takeFault _ _ _ (by simp)
  · exact (enterPass_frame _ _).faultRecordOk (by simp) (faultRecordOk_of_clear (by simp) rfl rfl rfl (by simp))

theorem execCEncsub_keeps_faultRecordOk {s t : State} (h : execCEncsub s = .next t) (hs : FaultRecordOk s) :
    FaultRecordOk t := by
  obtain ⟨-, -, hwarn⟩ := hs
  obtain ⟨-, ⟨e, rfl⟩ | ⟨bytes, -, rfl⟩⟩ := execCEncsub_next h
  · exact faultRecordOk_takeFault _ _ _ hwarn
  · exact faultRecordOk_of_clear (by simp) rfl rfl rfl hwarn

theorem HostFrame.faultRecordOk {s t : State} (h : HostFrame s t) (hs : FaultRecordOk s) : FaultRecordOk t := by
  rw [h]
  exact hs

theorem stepHost_keeps_faultRecordOk {s t : State} (h : stepHost s = .next t) (hs : FaultRecordOk s) :
    FaultRecordOk t := by
  rcases stepHost_cases h with hframe | ⟨v, rest, -, ⟨-, hd⟩ | ⟨-, he⟩ | ⟨-, rfl⟩⟩
  · exact hframe.faultRecordOk hs
  · exact execCDecode_faultRecordOk hd
  · exact execCEncsub_keeps_faultRecordOk he hs
  · exact faultRecordOk_of_clear (by simp) rfl rfl rfl (by simp)

/-- Settles O47: a fault of any command makes the record, and everything else leaves it 0; the only bit ever set in WARN is
IDXFILT. -/
theorem stepKeepsFaultRecord : Obligations.StepKeepsFaultRecord := by
  unfold Obligations.StepKeepsFaultRecord
  intro s t hs h
  rcases step_next h with ⟨-, rfl⟩ | ⟨-, r, -, ⟨hrun, hrec⟩ | ⟨-, hhost⟩⟩
  · exact faultRecordOk_of_clear (by simp) rfl rfl rfl (by simp)
  · exact stepRecord_keeps_faultRecordOk hrec hrun hs
  · exact stepHost_keeps_faultRecordOk hhost hs

/-! ### IDLE -/

/-- A machine that has left IDLE owes IDLE nothing. -/
theorem idleOk_of_run {s : State} (h : s.run = .run ∨ s.run = .done ∨ s.run = .fault) : IdleOk s := by
  intro hidle
  simp [hidle] at h

theorem HostFrame.idleOk {s t : State} (h : HostFrame s t) (hs : IdleOk s) : IdleOk t := by
  rw [h]
  exact hs

/-- Settles O48: a record and a command other than C.CLEAR end outside IDLE, the two ways into IDLE clear the three registers,
and no other host move reaches them. -/
theorem stepKeepsIdleCleared : Obligations.StepKeepsIdleCleared := by
  unfold Obligations.StepKeepsIdleCleared
  intro s t hs h
  rcases step_next h with ⟨-, rfl⟩ | ⟨-, r, -, ⟨hrun, hrec⟩ | ⟨-, hhost⟩⟩
  · exact fun _ => ⟨rfl, rfl, rfl⟩
  · exact idleOk_of_run (stepRecord_run hrec hrun)
  · rcases stepHost_cases hhost with hframe | ⟨v, rest, -, ⟨-, hd⟩ | ⟨-, he⟩ | ⟨-, rfl⟩⟩
    · exact hframe.idleOk hs
    · exact idleOk_of_run (execCDecode_run hd)
    · exact idleOk_of_run (.inr (execCEncsub_run he))
    · exact fun _ => ⟨rfl, rfl, rfl⟩

/-! ### The transitions of STATE -/

theorem HostFrame.run {s t : State} (h : HostFrame s t) : t.run = s.run := by rw [h]

/-- Settles O54: a record ends in RUN, DONE or FAULT; a host move keeps STATE unless it is a command, and C.DECODE and
C.ENCSUB are accepted in IDLE only. -/
theorem stateTransitions : Obligations.StateTransitions := by
  unfold Obligations.StateTransitions
  intro s t hreset h
  rcases step_next h with ⟨hr, -⟩ | ⟨-, r, -, ⟨hrun, hrec⟩ | ⟨hrun, hhost⟩⟩
  · exact absurd hr hreset
  · exact ⟨by simp [hrun], fun _ => .inl hrun, fun _ => stepRecord_run hrec hrun⟩
  · rcases stepHost_cases hhost with hframe | ⟨v, rest, hv, ⟨hcode, hd⟩ | ⟨hcode, he⟩ | ⟨hcode, rfl⟩⟩
    · have heq : t.run = s.run := hframe.run
      exact ⟨fun _ => .inl heq, fun ht => .inl (heq ▸ ht), fun hs => absurd hs hrun⟩
    · have hidle : s.run = .idle := (execCDecode_next hd).1
      exact ⟨by simp [hidle], fun _ => .inr ⟨hidle, v, rest, hv, hcode⟩, by simp [hidle]⟩
    · have hidle : s.run = .idle := (execCEncsub_next he).1
      exact ⟨by simp [hidle], fun ht => by simpa [ht] using execCEncsub_run he, by simp [hidle]⟩
    · exact ⟨fun _ => .inr ⟨rfl, v, rest, hv, hcode⟩, by simp, fun hs => absurd hs hrun⟩

/-! ### A running decode -/

/-- A decode that has ended, or that never ran, has no more to keep than its pass table. -/
theorem runningOk_of_not_run {s : State} (htable : tableOk s.params.passTable = true) (h : s.run ≠ .run) : RunningOk s :=
  ⟨htable, fun hrun => absurd hrun h⟩

theorem mem_allPasses_le {ilace : Byte} {k : Nat} (h : k ∈ allPasses ilace) : k ≤ 7 := by
  unfold allPasses at h
  split at h <;> simp at h <;> omega

theorem mem_allPasses_of_mem_passesAfter {ilace : Byte} {j k : Nat} (h : k ∈ passesAfter ilace j) : k ∈ allPasses ilace :=
  List.mem_of_mem_filter h

/-- Row 0 of a pass that is not empty is a position: under a well-formed table PASS, PW and PH hold what is written to them
(43_interlace_sequencer.md R202, R205). -/
theorem positionOk_setDims {s : State} {k : Nat} (htable : tableOk s.params.passTable = true)
    (hk : k ∈ allPasses s.ilace) (hpw : (setDims k s).pw ≠ 0) (hph : (setDims k s).ph ≠ 0) :
    PositionOk { setDims k { s with pass := BitVec.ofNat 3 k } with py := 0 } := by
  have hk7 := mem_allPasses_le hk
  have hpass : (BitVec.ofNat 3 k).toNat = k := by
    rw [BitVec.toNat_ofNat, Nat.mod_eq_of_lt (by omega)]
  have hw : (setDims k s).pw.toNat = passWidth s.params.passTable k s.width.toNat := by
    rw [setDims_pw, BitVec.toNat_ofNat]
    exact Nat.mod_eq_of_lt ((passWidth_le htable hk7 _).trans_lt s.width.isLt)
  have hh : (setDims k s).ph.toNat = passHeight s.params.passTable k s.height.toNat := by
    rw [setDims_ph, BitVec.toNat_ofNat]
    exact Nat.mod_eq_of_lt ((passHeight_le htable hk7 _).trans_lt s.height.isLt)
  refine ⟨?_, ?_, ?_, Nat.pos_of_ne_zero fun h0 => hpw (BitVec.eq_of_toNat_eq h0),
    Nat.pos_of_ne_zero fun h0 => hph (BitVec.eq_of_toNat_eq h0)⟩
  · show (BitVec.ofNat 3 k).toNat ∈ allPasses s.ilace
    rwa [hpass]
  · show (setDims k s).pw.toNat = passWidth s.params.passTable (BitVec.ofNat 3 k).toNat s.width.toNat
    rw [hpass, hw]
  · show (setDims k s).ph.toNat = passHeight s.params.passTable (BitVec.ofNat 3 k).toNat s.height.toNat
    rw [hpass, hh]

/-- Entering a pass keeps the invariant, whatever the position was before (43_interlace_sequencer.md R207). -/
theorem runningOk_enterPass {s : State} {ks : List Nat} (htable : tableOk s.params.passTable = true) (hconfig : ConfigOk s)
    (hframe : FrameWritten s) (hks : ∀ k ∈ ks, k ∈ allPasses s.ilace) : RunningOk (enterPass s ks) := by
  rcases enterPass_cases s ks with ⟨q, m, n, h⟩ | ⟨k, hk, h, hpw, hph⟩
  · rw [h]
    exact runningOk_of_not_run htable (by simp)
  · rw [h] at hpw hph ⊢
    exact ⟨htable, fun _ => ⟨hconfig, hframe, positionOk_setDims htable (hks k hk) hpw hph⟩⟩

/-- The next row of a pass is a position of it (43_interlace_sequencer.md R207). -/
theorem positionOk_nextRow {s : State} (h : PositionOk s) (hnext : s.py.toNat + 1 < s.ph.toNat) :
    PositionOk { s with py := s.py + 1 } := by
  obtain ⟨hpass, hw, hh, hpw, -⟩ := h
  have hpy : (s.py + 1).toNat = s.py.toNat + 1 :=
    BitVec.toNat_add_of_lt (y := 1) (hnext.trans s.ph.isLt)
  exact ⟨hpass, hw, hh, hpw, by rw [hpy]; exact hnext⟩

theorem runningOk_nextRecord {s : State} (htable : tableOk s.params.passTable = true) (hconfig : ConfigOk s)
    (hframe : FrameWritten s) (hpos : PositionOk s) : RunningOk (nextRecord s) := by
  unfold nextRecord
  split
  · exact ⟨htable, fun _ => ⟨hconfig, hframe, positionOk_nextRow hpos ‹_›⟩⟩
  · exact runningOk_enterPass htable hconfig hframe fun _ => mem_allPasses_of_mem_passesAfter

/-- A record keeps the invariant: it writes no configuration, takes no pixel's value away, and stays in its row until the
sequencer moves on. -/
theorem stepRecord_keeps_runningOk {s t : State} (h : stepRecord s = .next t) (hrun : s.run = .run) (hs : RunningOk s) :
    RunningOk t := by
  obtain ⟨htable, hrunning⟩ := hs
  obtain ⟨hconfig, hframe, hpos⟩ := hrunning hrun
  rw [← stepRecord_params h] at htable
  obtain ⟨u, hu, ⟨e, info, rfl⟩ | ⟨rfl, hsome⟩⟩ := stepRecord_frame h hrun
  · exact runningOk_of_not_run htable (by simp)
  · have harea : area u = area s := by rw [hu.eq]; rfl
    apply runningOk_nextRecord
    · rwa [nextRecord_params] at htable
    · rw [hu.eq]; exact hconfig
    · exact fun a ha => hsome a (hframe a (harea ▸ ha))
    · rw [hu.eq]; exact hpos

/-- The start checks establish what they check (44_commands.md R222). -/
theorem configOk_of_startCheck {s : State} (h : startCheck s = none) : ConfigOk s := by
  unfold startCheck at h
  split_ifs at h with harea hdepth hctype hilace hcap hself
  obtain ⟨hw, hh⟩ := not_or.1 harea
  exact ⟨hw, hh, hdepth, hctype, hilace, hcap⟩

/-- The zero fill fills the image (44_commands.md R222). -/
theorem frameWritten_zeroFill (s : State) : FrameWritten (zeroFill s) := by
  intro a ha
  have ha : a < area s := ha
  rw [zeroFill_fb, memRead_memStorePrefix]
  simp [ha]

/-- A decode that starts has the invariant. -/
theorem execCDecode_runningOk {s t : State} (h : execCDecode s = .next t) (htable : tableOk s.params.passTable = true) :
    RunningOk t := by
  obtain ⟨-, ⟨e, info, -, rfl⟩ | ⟨hcheck, rfl⟩⟩ := execCDecode_next h
  · exact runningOk_of_not_run (by simpa using htable) (by simp)
  · exact runningOk_enterPass htable (configOk_of_startCheck hcheck) (frameWritten_zeroFill _) fun _ => id

/-- A host move outside RUN enters RUN by C.DECODE only, which establishes the invariant. -/
theorem stepHost_runningOk {s t : State} (h : stepHost s = .next t) (hrun : s.run ≠ .run)
    (htable : tableOk s.params.passTable = true) : RunningOk t := by
  have htable' : tableOk t.params.passTable = true := by rwa [stepHost_params h]
  rcases stepHost_cases h with hframe | ⟨v, rest, -, ⟨-, hd⟩ | ⟨-, he⟩ | ⟨-, rfl⟩⟩
  · exact runningOk_of_not_run htable' (by rwa [hframe.run])
  · exact execCDecode_runningOk hd htable
  · refine runningOk_of_not_run htable' ?_
    rcases execCEncsub_run he with ht | ht <;> simp [ht]
  · exact runningOk_of_not_run htable' (by simp)

/-- Settles O49: a record moves to the next row, to a pass that is not empty or to an end of the decode; C.DECODE enters RUN
after its checks and its zero fill; nothing else enters it. -/
theorem stepKeepsRunningDecode : Obligations.StepKeepsRunningDecode := by
  unfold Obligations.StepKeepsRunningDecode
  intro s t ⟨htable, hrunning⟩ h
  rcases step_next h with ⟨-, rfl⟩ | ⟨-, r, -, ⟨hrun, hrec⟩ | ⟨hrun, hhost⟩⟩
  · exact runningOk_of_not_run htable (by simp)
  · exact stepRecord_keeps_runningOk hrec hrun ⟨htable, hrunning⟩
  · exact stepHost_runningOk hhost hrun htable

/-- The row of the current record lies inside the image (20_memory.md R73). -/
theorem inRow_lt_area {s : State} {a : Nat} (htable : tableOk s.params.passTable = true) (hpos : PositionOk s)
    (ha : InRow s a) : a < area s := by
  obtain ⟨-, hw, hh, -, hpy⟩ := hpos
  obtain ⟨x, hx, rfl⟩ := ha
  exact lin_lt (hw ▸ hx) (hh ▸ hpy) htable

theorem RecordFrame.idxFilt_sticky {s u : State} (h : RecordFrame s u) (hs : s.warn.getLsbD 0 = true) :
    u.warn.getLsbD 0 = true := by
  rcases h.warn with hw | hw <;> simp [hw, hs]

/-- What a step of a running decode can write at all: the position, the cursor, STATE and the fault record, WARN, FB, and the
model's own trace and counter (10_state.md R22, R36, 20_memory.md R78). -/
theorem stepRecord_eq {s t : State} (h : stepRecord s = .next t) (hrun : s.run = .run) :
    t = { s with
      latches := t.latches, cur := t.cur, pass := t.pass, pw := t.pw, ph := t.ph, py := t.py, px := t.px, ft := t.ft
      run := t.run, err := t.err, errInfo := t.errInfo, errCur := t.errCur, warn := t.warn, fb := t.fb, trace := t.trace
      seed := t.seed } := by
  obtain ⟨u, hu, ⟨e, info, rfl⟩ | ⟨rfl, -⟩⟩ := stepRecord_frame h hrun
  · rw [hu.eq]; rfl
  · rw [(nextRecord_frame _).eq, hu.eq]; rfl

/-- What a step of a running decode leaves in CUR, WARN and FB: a fault keeps the cursor and records it, a whole record moves
it; IDXFILT stays set; FB changes in the image only (10_state.md R22, R26, 60_exceptions.md R253). -/
theorem stepRecord_cur_warn_fb {s t : State} (h : stepRecord s = .next t) (hrun : s.run = .run) (hs : RunningOk s) :
    (s.warn.getLsbD 0 = true → t.warn.getLsbD 0 = true) ∧
    (t.run ≠ .fault → t.cur = s.cur + 1 + rowBytes s) ∧ (t.run = .fault → t.cur = s.cur ∧ t.errCur = s.cur) ∧
    ∀ a, area s ≤ a → memRead t.fb a = memRead s.fb a := by
  obtain ⟨htable, hrunning⟩ := hs
  obtain ⟨-, -, hpos⟩ := hrunning hrun
  obtain ⟨u, hu, ht⟩ := stepRecord_frame h hrun
  have hcur : u.cur = s.cur := by rw [hu.eq]
  have hurun : u.run = .run := by rw [hu.eq]; exact hrun
  have hfb : ∀ a, area s ≤ a → memRead u.fb a = memRead s.fb a := fun a ha =>
    hu.fb a fun hrow => absurd (inRow_lt_area htable hpos hrow) ha.not_gt
  rcases ht with ⟨e, info, rfl⟩ | ⟨rfl, -⟩
  · have harea : area u = area s := by rw [hu.eq]; rfl
    refine ⟨fun hw => ?_, fun hne => absurd (takeFault_run _ _ _ _) hne, fun _ => by simp [hcur], fun a ha => ?_⟩
    · rw [takeFault_warn]
      exact hu.idxFilt_sticky hw
    · rw [takeFault_decode_fb_above _ _ _ (harea ▸ ha), hfb a ha]
  · have hseq := nextRecord_frame (endRecord (rowBytes s) u)
    refine ⟨fun hw => ?_, fun _ => ?_, fun hf => ?_, fun a ha => ?_⟩
    · rw [hseq.eq]
      exact hu.idxFilt_sticky hw
    · rw [hseq.eq, endRecord_cur, hcur]
    · rcases hseq.run with hr | hr <;> simp [hr, hurun] at hf
    · rw [hseq.eq]
      exact hfb a ha

/-- Settles O52: a step of a running decode is a record; it has no way to write what the statement lists first, and its row
lies inside the image. -/
theorem runningStepLeavesInputsAlone : Obligations.RunningStepLeavesInputsAlone := by
  unfold Obligations.RunningStepLeavesInputsAlone
  intro s t hrun hreset hs h
  rw [step_of_resetIn_none hreset, stepOn_of_run hrun] at h
  have hrest := stepRecord_cur_warn_fb h hrun hs
  rw [stepRecord_eq h hrun]
  exact ⟨rfl, rfl, rfl, rfl, rfl, rfl, rfl, rfl, rfl, rfl, rfl, rfl, hrest⟩

/-! ### Reset -/

/-- Settles O7: each value is the one `State.reset` writes out, and a memory without cells holds no value. -/
theorem resetHoldsStatedValues : Obligations.ResetHoldsStatedValues := by
  unfold Obligations.ResetHoldsStatedValues
  exact ⟨rfl, rfl, rfl, rfl, rfl, rfl, rfl, rfl, rfl, rfl, rfl, rfl, rfl, rfl,
    fun a => ⟨memRead_nil a, memRead_nil a, memRead_nil a, memRead_nil a⟩⟩

/-- The pass table of reset meets 43_interlace_sequencer.md R210. -/
theorem tableOk_defaultPassTable : tableOk defaultPassTable = true := by decide

/-- Settles O45: in IDLE with everything 0 and empty only the pass table needs a check. -/
theorem resetMeetsInvariants : Obligations.ResetMeetsInvariants := by
  unfold Obligations.ResetMeetsInvariants
  have hrun : State.reset.run = .idle := rfl
  exact ⟨rfl, faultRecordOk_of_clear (by simp [hrun]) rfl rfl rfl (by decide),
    runningOk_of_not_run tableOk_defaultPassTable (by simp [hrun]), fun _ => ⟨rfl, rfl, rfl⟩⟩

/-! ### The register file at the host port -/

theorem hostMove_writeReg_of_ok {n v : Nat} {s t : State} (hn : n ≠ 0) (hidle : s.run = .idle)
    (h : writeReg n v s = .ok t) : hostMove (.writeReg n v) s = .settled t := by
  simp [hostMove, hn, hidle, h]

theorem hostMove_writeReg_of_error {n v : Nat} {s : State} {r : Refusal} (hn : n ≠ 0) (hidle : s.run = .idle)
    (h : writeReg n v s = .error r) : hostMove (.writeReg n v) s = .refuse r := by
  simp [hostMove, hn, hidle, h]

/-- A read-only register, or none (10_state.md R35). -/
theorem writeReg_readOnly {n v : Nat} (s : State) (h : 1 ≤ n ∧ n ≤ 5 ∨ 13 ≤ n) : writeReg n v s = .ok s := by
  rcases h with ⟨h1, h5⟩ | h13
  · interval_cases n <;> rfl
  · obtain ⟨k, rfl⟩ := Nat.exists_eq_add_of_le' h13
    rfl

theorem writeReg_palLen {v : Nat} {s : State} (h : v ≤ palSize s.params) :
    writeReg 11 v s = .ok { s with palLen := BitVec.ofNat 9 v } := if_pos h

theorem writeReg_palLen_refused {v : Nat} {s : State} (h : ¬ v ≤ palSize s.params) :
    writeReg 11 v s = .error (.palLenTooLarge v) := if_neg h

theorem writeReg_inLen {v : Nat} {s : State} (h : fits s.params.inCapacity v = true) :
    writeReg 12 v s = .ok { s with inLen := v } := if_pos h

theorem writeReg_inLen_refused {v : Nat} {s : State} (h : fits s.params.inCapacity v = false) :
    writeReg 12 v s = .error (.inLenTooLarge v) := if_neg (by simp [h])

/-- Settles O40: in IDLE the step is the write of the register file, one equation for each kind of register. -/
theorem hostWritesRegistersInIdle : Obligations.HostWritesRegistersInIdle := by
  unfold Obligations.HostWritesRegistersInIdle
  intro s n v rest hreset hidle hhost
  have hrun : s.run ≠ .run := by simp [hidle]
  have accepted : ∀ {t : State}, n ≠ 0 → writeReg n v { s with host := rest } = .ok t → step s = .next t :=
    fun hn h => step_of_settled hreset hrun hhost (hostMove_writeReg_of_ok hn hidle h)
  have refused : ∀ {r : Refusal}, n ≠ 0 → writeReg n v { s with host := rest } = .error r → step s = .refused r :=
    fun hn h => step_of_refuse hreset hrun hhost (hostMove_writeReg_of_error hn hidle h)
  refine ⟨?_, ?_, ?_, ?_, ?_, ?_, ?_, ?_, ?_, ?_⟩
  · rintro rfl
    exact ⟨_, accepted (by decide) rfl, BitVec.toNat_ofNat v 32⟩
  · rintro rfl
    exact ⟨_, accepted (by decide) rfl, BitVec.toNat_ofNat v 32⟩
  · rintro rfl
    exact ⟨_, accepted (by decide) rfl, BitVec.toNat_ofNat v 8⟩
  · rintro rfl
    exact ⟨_, accepted (by decide) rfl, BitVec.toNat_ofNat v 8⟩
  · rintro rfl
    exact ⟨_, accepted (by decide) rfl, BitVec.toNat_ofNat v 8⟩
  · rintro rfl h256 hentries
    refine ⟨_, accepted (by decide) (writeReg_palLen (le_palSize.2 ⟨hentries, h256⟩)), ?_⟩
    rw [BitVec.toNat_ofNat, Nat.mod_eq_of_lt (by omega)]
  · rintro rfl hlarge
    refine refused (by decide) (writeReg_palLen_refused fun hle => ?_)
    have ⟨hentries, h256⟩ := le_palSize.1 hle
    exact hlarge.elim h256.not_gt hentries.not_gt
  · rintro rfl hfits
    exact accepted (by decide) (writeReg_inLen hfits)
  · rintro rfl hfits
    exact refused (by decide) (writeReg_inLen_refused hfits)
  · intro hn
    exact accepted (by omega) (writeReg_readOnly _ hn)

/-- `CTRL` and a number above 20 read 0 (10_state.md R34, R35). -/
theorem readReg_zero {n : Nat} (s : State) (h : n = 0 ∨ 20 < n) : readReg s n = 0 := by
  rcases h with rfl | h20
  · rfl
  · obtain ⟨k, rfl⟩ := Nat.exists_eq_add_of_le' (Nat.succ_le_of_lt h20)
    rfl

/-- Settles O41: a read settles in every STATE but RUN, and what it answers is the register file's. -/
theorem hostReadsRegisters : Obligations.HostReadsRegisters := by
  unfold Obligations.HostReadsRegisters
  intro s n rest hreset hrun hhost
  refine ⟨readReg s n, step_of_settled hreset hrun hhost rfl, readReg_zero s, ?_⟩
  refine ⟨?_, ?_, ?_, ?_, ?_, ?_, ?_, ?_, ?_, ?_, ?_, ?_, ?_, ?_, ?_, ?_, ?_, ?_, ?_, ?_⟩ <;> (rintro rfl; rfl)

theorem hostStore_refused {s t : State} {sp : Space} {a : Nat} (h : s.run ≠ .idle) :
    hostStore s sp a t = .refuse .writeNotIdle := if_pos h

/-- Settles O43: the host port looks at STATE before it looks at the register or the address. -/
theorem hostWritesRefusedOutsideIdle : Obligations.HostWritesRefusedOutsideIdle := by
  unfold Obligations.HostWritesRefusedOutsideIdle
  intro s op rest hreset hstate hhost hop
  have hrun : s.run ≠ .run := by rcases hstate with h | h <;> simp [h]
  have hidle : s.run ≠ .idle := by rcases hstate with h | h <;> simp [h]
  refine step_of_refuse hreset hrun hhost ?_
  rcases hop with ⟨n, v, rfl, hn⟩ | ⟨a, v, rfl⟩ | ⟨a, v, rfl⟩ | ⟨a, v, rfl⟩
  · exact (if_neg hn).trans (if_pos hidle)
  · exact hostStore_refused hidle
  · exact hostStore_refused hidle
  · exact hostStore_refused hidle

end Sys2Proof.Machine
end

section
/-! PROOFS. The memories (20_memory.md): every step keeps their canonical form, a running decode finds a value wherever it
reads and an address wherever it stores, and what stops a command, the unpacker and the host at a location that holds no
value. -/

namespace Sys2Proof.Machine

/-! ### The canonical form -/

theorem memoryWf_iff {s : State} : memoryWf s = true ↔
    memWf s.pal = true ∧ memWf s.input = true ∧ memWf s.fb = true ∧ memWf s.out = true := by
  simp only [memoryWf, Bool.and_eq_true, and_assoc]

/-- A new FB that is canonical where the old one was keeps the four memories so. -/
theorem memoryWf_setFb {s : State} {m : Cells 32} (hm : memWf s.fb = true → memWf m = true) (hs : memoryWf s = true) :
    memoryWf { s with fb := m } = true := by
  obtain ⟨hpal, hinput, hfb, hout⟩ := memoryWf_iff.1 hs
  exact memoryWf_iff.2 ⟨hpal, hinput, hm hfb, hout⟩

theorem memoryWf_recordWarning {s : State} (hs : memoryWf s = true) : memoryWf (recordWarning s) = true := by
  unfold recordWarning
  split <;> exact hs

theorem memoryWf_recordStep {f : Filter} {s t : State} (h : recordStep f s = .next t) (hs : memoryWf s = true) :
    memoryWf t = true := by
  have hpw : 0 + s.pw.toNat ≤ 2 ^ 32 := by have := s.pw.isLt; omega
  have hwarn : memoryWf (recordWarning { s with px := 0, ft := filterCode f }) = true := memoryWf_recordWarning hs
  obtain ⟨-, ⟨-, rfl⟩ | ⟨-, u, hu, rfl⟩ | ⟨-, ht⟩⟩ := recordStep_next h
  · exact memoryWf_takeFault _ _ _ hs
  · obtain ⟨heq, -, -, hfb⟩ := pixelLoop_go hu hpw
    show memoryWf u = true
    rw [heq]
    exact memoryWf_setFb hfb hwarn
  · obtain ⟨-, u, i, heq, rfl, -, hfb⟩ := pixelLoop_ended ht hpw
    refine memoryWf_takeFault _ _ _ ?_
    rw [heq]
    exact memoryWf_setFb hfb hwarn

theorem SequencerFrame.memoryWf {s t : State} (h : SequencerFrame s t) (hs : memoryWf s = true) : memoryWf t = true := by
  rw [h.eq]
  exact hs

theorem memoryWf_stepRecord {s t : State} (h : stepRecord s = .next t) (hs : memoryWf s = true) : memoryWf t = true := by
  rcases stepRecord_next h with hf | ⟨f, u, -, -, hr, rfl⟩
  · rcases fetch_faulted hf with ⟨-, rfl⟩ | ⟨b, -, rfl⟩
    · exact memoryWf_takeFault _ _ _ hs
    · exact memoryWf_takeFault _ _ _ hs
  · have hu : memoryWf u = true := memoryWf_recordStep hr hs
    split
    · exact (nextRecord_frame u).memoryWf hu
    · exact hu

theorem memoryWf_hostMove {op : HostOp} {s t : State} (h : hostMove op s = .settled t) (hs : memoryWf s = true) :
    memoryWf t = true := by
  obtain ⟨hpal, hinput, hfb, hout⟩ := memoryWf_iff.1 hs
  rcases hostMove_settled h with ⟨v, rfl⟩ |
    ⟨-, ⟨w, n, d, c, l, p, m, rfl⟩ | ⟨a, v, rfl⟩ | ⟨a, v, rfl⟩ | ⟨a, v, rfl⟩⟩
  · exact hs
  · exact hs
  · exact memoryWf_iff.2 ⟨hpal, memWf_memWrite a v hinput, hfb, hout⟩
  · exact memoryWf_iff.2 ⟨memWf_memWrite a v hpal, hinput, hfb, hout⟩
  · exact memoryWf_setFb (memWf_memWrite a v) hs

theorem memoryWf_execCDecode {s t : State} (h : execCDecode s = .next t) (hs : memoryWf s = true) : memoryWf t = true := by
  obtain ⟨-, ⟨e, info, -, rfl⟩ | ⟨-, rfl⟩⟩ := execCDecode_next h
  · exact memoryWf_takeFault _ _ _ hs
  · exact (enterPass_frame _ _).memoryWf (memoryWf_setFb (s := beginDecode s) (memWf_memStorePrefix _) hs)

theorem memoryWf_execCEncsub {s t : State} (h : execCEncsub s = .next t) (hs : memoryWf s = true) : memoryWf t = true := by
  obtain ⟨-, ⟨e, rfl⟩ | ⟨bytes, -, rfl⟩⟩ := execCEncsub_next h
  · exact memoryWf_takeFault _ _ _ hs
  · obtain ⟨hpal, hinput, hfb, hout⟩ := memoryWf_iff.1 hs
    exact memoryWf_iff.2 ⟨hpal, hinput, hfb, memWf_memStorePrefix bytes hout⟩

/-- C.CLEAR empties PAL and IN and leaves FB and OUT (44_commands.md R225). -/
theorem memoryWf_clearCall {s : State} (hs : memoryWf s = true) : memoryWf (clearCall s) = true := by
  obtain ⟨-, -, hfb, hout⟩ := memoryWf_iff.1 hs
  exact memoryWf_iff.2 ⟨memWf_nil, memWf_nil, hfb, hout⟩

theorem memoryWf_stepHost {s t : State} (h : stepHost s = .next t) (hs : memoryWf s = true) : memoryWf t = true := by
  rcases stepHost_next h with ⟨-, rfl⟩ | ⟨op, rest, -, hm | ⟨i, hm, hi⟩⟩
  · exact hs
  · exact memoryWf_hostMove hm hs
  · obtain ⟨-, v, -, -, ⟨rfl, -⟩ | ⟨rfl, -⟩ | ⟨rfl, -⟩⟩ := hostMove_command hm
    · exact memoryWf_execCDecode hi hs
    · exact memoryWf_execCEncsub hi hs
    · obtain ⟨-, rfl⟩ := execCClear_next hi
      exact memoryWf_clearCall hs

/-- Settles O46: reset empties the memories, and whatever else a step writes into one goes through a single write, the writes
of a whole range or what a fault leaves unspecified, each of which keeps the form. -/
theorem stepKeepsMemoryCanonical : Obligations.StepKeepsMemoryCanonical := by
  unfold Obligations.StepKeepsMemoryCanonical
  intro s t hs h
  rcases step_next h with ⟨-, rfl⟩ | ⟨-, r, -, ⟨-, hrec⟩ | ⟨-, hhost⟩⟩
  · exact memoryWf_iff.2 ⟨memWf_nil, memWf_nil, memWf_nil, memWf_nil⟩
  · exact memoryWf_stepRecord hrec hs
  · exact memoryWf_stepHost hhost hs

/-! ### The samples of a row and the channels of a pixel -/

theorem depth_mem_of_legalDepth {depth : Byte} (h : legalDepth depth = true) : depth.toNat ∈ [1, 2, 4, 8] := by
  simp only [legalDepth, Bool.or_eq_true, beq_iff_eq] at h
  rcases h with ((rfl | rfl) | rfl) | rfl <;> decide

/-- A sample of a row of `n` samples lies in the row's bytes (30_encoding.md R91, 41_bit_depth_unpacker.md R140). -/
theorem sampleAddr_lt {base depth i n : Nat} (hdepth : depth ∈ [1, 2, 4, 8]) (hi : i < n) :
    sampleAddr base depth i < base + ceilDiv (n * depth) 8 := by
  simp only [List.mem_cons, List.not_mem_nil, or_false] at hdepth
  unfold sampleAddr samplesPerByte ceilDiv
  rcases hdepth with rfl | rfl | rfl | rfl <;> omega

/-- A sample is there where its byte holds a value. -/
theorem extractSample_of_isSome {s : State} {base depth i : Nat}
    (h : (memRead s.input (sampleAddr base depth i)).isSome) : ∃ b, extractSample s base depth i = .ok b := by
  obtain ⟨byte, hbyte⟩ := Option.isSome_iff_exists.1 h
  exact ⟨sampleOfByte byte depth i, by rw [extractSample, readIn_eq_ok.2 hbyte]; rfl⟩

/-- It is stuck where its byte holds none (20_memory.md R79). -/
theorem extractSample_of_none {s : State} {base depth i : Nat} (h : memRead s.input (sampleAddr base depth i) = none) :
    extractSample s base depth i = .error (.noValue .input (sampleAddr base depth i)) := by
  simp [extractSample, readIn, h, Except.map]

theorem channelSample_of_ok {s : State} {x c : Nat} {b : Byte}
    (h : extractSample s (s.cur + 1) s.depth.toNat (x * samplesPerPixel s.ctype + c) = .ok b) :
    channelSample s x c = .ok (widenSample s.params.widen s.depth.toNat b) := by
  rw [channelSample, h]
  rfl

theorem channelSample_of_error {s : State} {x c : Nat} {e : Fault}
    (h : extractSample s (s.cur + 1) s.depth.toNat (x * samplesPerPixel s.ctype + c) = .error e) :
    channelSample s x c = .error e := by
  rw [channelSample, h]
  rfl

/-- A pixel is there where all its channels are (41_bit_depth_unpacker.md R142). -/
theorem composePixel_of_channels {s : State} {x : Nat} (hindexed : ctIndexed s.ctype = false)
    (h : ∀ c < samplesPerPixel s.ctype, ∃ b, channelSample s x c = .ok b) : ∃ v, composePixel s x = .ok v := by
  choose! b hb using h
  simp only [samplesPerPixel, hindexed, Bool.false_eq_true, if_false] at hb
  unfold composePixel alphaSample
  cases hcolor : ctColor s.ctype <;> cases halpha : ctAlpha s.ctype <;> simp only [hcolor, halpha, if_true] at hb ⊢
  case false.false => exact ⟨_, by rw [hb 0 (by decide)]; rfl⟩
  case false.true => exact ⟨_, by rw [hb 0 (by decide), hb 1 (by decide)]; rfl⟩
  case true.false => exact ⟨_, by rw [hb 0 (by decide), hb 1 (by decide), hb 2 (by decide)]; rfl⟩
  case true.true => exact ⟨_, by rw [hb 0 (by decide), hb 1 (by decide), hb 2 (by decide), hb 3 (by decide)]; rfl⟩

/-- A pixel is stuck where the first of its channels that is not there is (41_bit_depth_unpacker.md R142). -/
theorem composePixel_of_channel_error {s : State} {x c : Nat} {e : Fault} (hindexed : ctIndexed s.ctype = false)
    (hc : c < samplesPerPixel s.ctype) (hbefore : ∀ d < c, ∃ b, channelSample s x d = .ok b)
    (h : channelSample s x c = .error e) : composePixel s x = .error e := by
  choose! b hb using hbefore
  simp only [samplesPerPixel, hindexed, Bool.false_eq_true, if_false] at hc
  unfold composePixel alphaSample
  cases hcolor : ctColor s.ctype <;> cases halpha : ctAlpha s.ctype <;>
    simp only [hcolor, halpha, Bool.false_eq_true, if_false, if_true, Nat.reduceAdd] at hc ⊢
  case false.false => interval_cases c; simp [h, bind, Except.bind]
  case false.true => interval_cases c <;> simp [h, hb, bind, Except.bind]
  case true.false => interval_cases c <;> simp [h, hb, bind, Except.bind]
  case true.true => interval_cases c <;> simp [h, hb, bind, Except.bind]

/-! ### The unpacker at a byte that holds no value -/

/-- The samples per pixel of the legal colour types that have a composition (30_encoding.md R98). -/
theorem composed_ctype {ctype : Byte} {spp : Nat} (h : (ctype, spp) ∈ [((0 : Byte), 1), (2, 3), (4, 2), (6, 4)]) :
    ctIndexed ctype = false ∧ legalCtype ctype = true ∧ samplesPerPixel ctype = spp := by
  simp only [List.mem_cons, List.not_mem_nil, or_false, Prod.mk.injEq] at h
  rcases h with ⟨rfl, rfl⟩ | ⟨rfl, rfl⟩ | ⟨rfl, rfl⟩ | ⟨rfl, rfl⟩ <;> decide

theorem depthOperandOk_of_mem {depth : Nat} (h : depth ∈ [1, 2, 4, 8]) : depthOperandOk depth = true := by
  simp only [List.mem_cons, List.not_mem_nil, or_false] at h
  rcases h with rfl | rfl | rfl | rfl <;> rfl

theorem execUCompose_of_error {s : State} {x : Nat} {e : Fault} (hdepth : s.depth.toNat ∈ [1, 2, 4, 8])
    (hindexed : ctIndexed s.ctype = false) (hlegal : legalCtype s.ctype = true) (h : composePixel s x = .error e) :
    exec (.uCompose x) s = .fault e := by
  show execUCompose x s = _
  simp [execUCompose, depthOperandOk_of_mem hdepth, hindexed, hlegal, h]

theorem execUPalette_of_stuck {s : State} {x : Nat} {e : Fault} (hdepth : s.depth.toNat ∈ [1, 2, 4, 8])
    (h : lookupPixel s x = .stuck e) : exec (.uPalette x) s = .fault e := by
  show execUPalette x s = _
  simp [execUPalette, depthOperandOk_of_mem hdepth, h, flowOutcome]

theorem lookupPixel_of_error {s : State} {x : Nat} {e : Fault}
    (h : extractSample s (s.cur + 1) s.depth.toNat x = .error e) : lookupPixel s x = .stuck e := by
  rw [lookupPixel, h]

/-- Settles O20: the channels before the missing one are there, so the composition gets to it and stops there; the lookup reads
one byte only. -/
theorem unpackerStuckOnMissingByte : Obligations.UnpackerStuckOnMissingByte := by
  unfold Obligations.UnpackerStuckOnMissingByte
  intro s x hdepth
  refine ⟨fun spp c htype hc hbefore hmissing => ?_, fun hmissing => ?_⟩
  · obtain ⟨hindexed, hlegal, rfl⟩ := composed_ctype htype
    refine execUCompose_of_error hdepth hindexed hlegal (composePixel_of_channel_error hindexed hc (fun d hd => ?_) ?_)
    · obtain ⟨b, hb⟩ := extractSample_of_isSome (hbefore d hd)
      exact ⟨_, channelSample_of_ok hb⟩
    · exact channelSample_of_error (extractSample_of_none hmissing)
  · exact execUPalette_of_stuck hdepth (lookupPixel_of_error (extractSample_of_none hmissing))

/-! ### A running decode never stops without a next state -/

/-- The record at CUR can be reconstructed: the invariant of a running decode, a row that is complete in IN, and what the host
owes a decode (42_scanline_reconstructor.md R160, 70_reset_and_hazards.md R283). -/
structure RowReady (s : State) : Prop where
  table : tableOk s.params.passTable = true
  config : ConfigOk s
  frame : FrameWritten s
  position : PositionOk s
  row : s.cur + 1 + rowBytes s ≤ s.inLen
  stream : StreamWritten s
  palette : PaletteWritten s

theorem RowReady.depth_mem {s : State} (h : RowReady s) : s.depth.toNat ∈ [1, 2, 4, 8] := by
  obtain ⟨-, -, hdepth, -, -, -⟩ := h.config
  exact depth_mem_of_legalDepth hdepth

theorem RowReady.fits_area {s : State} (h : RowReady s) : fits s.params.fbCapacity (area s) = true := by
  obtain ⟨-, -, -, -, -, hcapacity⟩ := h.config
  exact hcapacity

/-- Every sample of the row is there (20_memory.md R79). -/
theorem RowReady.exists_sample {s : State} (h : RowReady s) {i : Nat} (hi : i < s.pw.toNat * samplesPerPixel s.ctype) :
    ∃ b, extractSample s (s.cur + 1) s.depth.toNat i = .ok b :=
  extractSample_of_isSome (h.stream _ ((sampleAddr_lt h.depth_mem hi).trans_le h.row))

theorem RowReady.exists_channel {s : State} (h : RowReady s) {x c : Nat} (hx : x < s.pw.toNat)
    (hc : c < samplesPerPixel s.ctype) : ∃ b, channelSample s x c = .ok b := by
  have hi : x * samplesPerPixel s.ctype + c < s.pw.toNat * samplesPerPixel s.ctype :=
    calc x * samplesPerPixel s.ctype + c < (x + 1) * samplesPerPixel s.ctype := by rw [Nat.add_one_mul]; omega
      _ ≤ s.pw.toNat * samplesPerPixel s.ctype := Nat.mul_le_mul_right _ hx
  obtain ⟨b, hb⟩ := h.exists_sample hi
  exact ⟨_, channelSample_of_ok hb⟩

/-- The address of a pixel of the current pass is in the image (20_memory.md R73). -/
theorem RowReady.lin_lt {s : State} (h : RowReady s) {x y : Nat} (hx : x < s.pw.toNat) (hy : y < s.ph.toNat) :
    lin s x y < area s := by
  obtain ⟨-, hw, hh, -, -⟩ := h.position
  exact Machine.lin_lt (hw ▸ hx) (hh ▸ hy) h.table

/-- A neighbour of the row's pixels is missing or there (42_scanline_reconstructor.md R162). -/
theorem RowReady.exists_neighbour {s : State} (h : RowReady s) {present : Bool} {x y : Nat} (hx : x < s.pw.toNat)
    (hy : y < s.ph.toNat) : ∃ p, neighbour s present x y = .ok p := by
  cases present
  · exact ⟨0, rfl⟩
  · obtain ⟨p, hp⟩ := Option.isSome_iff_exists.1 (h.frame _ (h.lin_lt hx hy))
    exact ⟨p, readFb_eq_ok.2 hp⟩

theorem RowReady.exists_latches {s : State} (h : RowReady s) {x y : Nat} (hindexed : ctIndexed s.ctype = false)
    (hx : x < s.pw.toNat) (hy : y < s.ph.toNat) : ∃ l, loadLatches s x y = .ok l := by
  obtain ⟨v, hv⟩ := composePixel_of_channels hindexed fun c hc => h.exists_channel hx hc
  obtain ⟨a, ha⟩ := h.exists_neighbour (present := 0 < x) (Nat.sub_lt_of_lt hx) hy
  obtain ⟨b, hb⟩ := h.exists_neighbour (present := 0 < y) hx (Nat.sub_lt_of_lt hy)
  obtain ⟨c, hc⟩ := h.exists_neighbour (present := 0 < x && 0 < y) (Nat.sub_lt_of_lt hx) (Nat.sub_lt_of_lt hy)
  exact ⟨_, by rw [loadLatches, hv, ha, hb, hc]; rfl⟩

/-- The index of a pixel is there, and so is its entry where the palette has one (41_bit_depth_unpacker.md R144). -/
theorem RowReady.lookupPixel_ne_stuck {s : State} (h : RowReady s) {x : Nat} (hindexed : ctIndexed s.ctype = true)
    (hx : x < s.pw.toNat) (e : Fault) : lookupPixel s x ≠ .stuck e := by
  have hspp : samplesPerPixel s.ctype = 1 := if_pos hindexed
  obtain ⟨i, hi⟩ := h.exists_sample (i := x) (by rwa [hspp, Nat.mul_one])
  rw [lookupPixel, hi]
  by_cases hlen : s.palLen.toNat ≤ i.toNat
  · simp [hlen]
  · obtain ⟨entry, hentry⟩ := Option.isSome_iff_exists.1 (h.palette hindexed i.toNat (by omega))
    simp [hlen, readPal_eq_ok.2 hentry]

theorem storePixel_ne_stuck {r : Pixel} {s : State} (h : fits s.params.fbCapacity (lin s s.px.toNat s.py.toNat + 1) = true)
    (e : Fault) : storePixel r s ≠ .stuck e := by
  have hstore : storeFb { s with latches := { s.latches with r := r } } (lin s s.px.toNat s.py.toNat) r = .ok _ :=
    storeFb_eq_ok.2 ⟨h, rfl⟩
  rw [storePixel, hstore]
  simp

theorem RowReady.pixelStep_ne_stuck {f : Filter} {s : State} (h : RowReady s) (hx : s.px.toNat < s.pw.toNat) (e : Fault) :
    pixelStep f s ≠ .stuck e := by
  obtain ⟨-, -, -, -, hy⟩ := h.position
  have hfits : fits s.params.fbCapacity (lin s s.px.toNat s.py.toNat + 1) = true :=
    fits_of_le (h.lin_lt hx hy) h.fits_area
  unfold pixelStep
  cases hindexed : ctIndexed s.ctype
  · obtain ⟨l, hl⟩ := h.exists_latches hindexed hx hy
    simp only [Bool.false_eq_true, if_false, filteredPixel, hl]
    exact storePixel_ne_stuck (s := { s with latches := l }) hfits e
  · simp only [if_true]
    intro hstuck
    rcases flowThen_eq_stuck.1 hstuck with hlook | ⟨t, ht, hstore⟩
    · exact h.lookupPixel_ne_stuck hindexed hx e hlook
    · obtain ⟨i, entry, -, -, -, rfl⟩ := lookupPixel_go ht
      exact storePixel_ne_stuck (s := loadV (palettePixel entry) s) hfits e hstore

/-- A pixel step keeps the row ready: it writes no configuration and takes no pixel's value away. -/
theorem RowReady.pixelStep {f : Filter} {s t : State} (h : RowReady s) (hstep : pixelStep f s = .go t) : RowReady t := by
  obtain ⟨-, r, ht⟩ := pixelStep_go hstep
  have hframe : FrameWritten { s with latches := t.latches, fb := memWrite (lin s s.px.toNat s.py.toNat) r s.fb } := by
    intro a ha
    rw [memRead_memWrite]
    split
    · rfl
    · exact h.frame a ha
  rw [ht]
  exact ⟨h.table, h.config, hframe, h.position, h.row, h.stream, h.palette⟩

theorem RowReady.pixelLoop_ne_stuck {f : Filter} {n x : Nat} {s : State} (h : RowReady s) (hx : x + n ≤ s.pw.toNat)
    (e : Fault) : pixelLoop f n x s ≠ .stuck e := by
  induction n generalizing x s with
  | zero => simp [pixelLoop]
  | succ n ih =>
    have hpx : (BitVec.ofNat 32 x).toNat = x := by
      have := s.pw.isLt
      rw [BitVec.toNat_ofNat, Nat.mod_eq_of_lt (by omega)]
    have hat : RowReady { s with px := BitVec.ofNat 32 x } :=
      ⟨h.table, h.config, h.frame, h.position, h.row, h.stream, h.palette⟩
    intro hstuck
    rcases flowThen_eq_stuck.1 hstuck with hstep | ⟨u, hu, hloop⟩
    · exact hat.pixelStep_ne_stuck (by dsimp only; omega) e hstep
    · have hpw : u.pw = s.pw := by
        obtain ⟨-, r, hr⟩ := pixelStep_go hu
        rw [hr]
      exact ih (hat.pixelStep hu) (by rw [hpw]; omega) hloop

@[simp] theorem recordWarning_pw (s : State) : (recordWarning s).pw = s.pw := by
  unfold recordWarning
  split
  · exact warnIdxFilt_pw s
  · rfl

theorem RowReady.recordWarning {s : State} (h : RowReady s) : RowReady (recordWarning s) := by
  unfold Machine.recordWarning
  split
  · exact ⟨h.table, h.config, h.frame, h.position, h.row, h.stream, h.palette⟩
  · exact h

theorem recordReady_of_position {s : State} (hconfig : ConfigOk s) (hposition : PositionOk s) : recordReady s = true := by
  obtain ⟨-, -, hdepth, hctype, -, -⟩ := hconfig
  obtain ⟨-, -, -, hpw, hpy⟩ := hposition
  simp [recordReady, hdepth, hctype, hpw, hpy]

/-- A record step has a next state: a fault for a short row, else what the pixel loop comes to. -/
theorem recordStep_progress {f : Filter} {s : State} (hrun : s.run = .run) (hs : RunningOk s) (hstream : StreamWritten s)
    (hpalette : PaletteWritten s) : ∃ t, recordStep f s = .next t := by
  obtain ⟨htable, hrunning⟩ := hs
  obtain ⟨hconfig, hframe, hposition⟩ := hrunning hrun
  rw [recordStep, if_pos (recordReady_of_position hconfig hposition)]
  dsimp only
  split
  · exact ⟨_, rfl⟩
  · rename_i hrow
    have hready : RowReady { s with px := 0, ft := filterCode f } :=
      ⟨htable, hconfig, hframe, hposition, Nat.le_of_not_lt hrow, hstream, hpalette⟩
    have hloop := hready.recordWarning.pixelLoop_ne_stuck (f := f) (n := s.pw.toNat) (x := 0) (by simp)
    cases hl : pixelLoop f s.pw.toNat 0 (recordWarning { s with px := 0, ft := filterCode f }) with
    | go u => exact ⟨_, rfl⟩
    | ended u => exact ⟨_, rfl⟩
    | stuck e => exact absurd hl (hloop e)

/-- The filter-type byte is there where a byte is left (42_scanline_reconstructor.md R160). -/
theorem fetch_ne_stuck {s : State} (hstream : StreamWritten s) (e : Fault) : fetch s ≠ .stuck e := by
  unfold fetch
  split
  · simp
  · rename_i hcur
    obtain ⟨b, hb⟩ := Option.isSome_iff_exists.1 (hstream s.cur (by omega))
    rw [readIn_eq_ok.2 hb]
    dsimp only
    split <;> simp

theorem stepRecord_progress {s : State} (hrun : s.run = .run) (hs : RunningOk s) (hstream : StreamWritten s)
    (hpalette : PaletteWritten s) : ∃ t, stepRecord s = .next t := by
  unfold stepRecord
  cases hf : fetch s with
  | faulted t => exact ⟨t, rfl⟩
  | stuck e => exact absurd hf (fetch_ne_stuck hstream e)
  | issue i t =>
    obtain ⟨-, b, f, -, -, rfl, rfl, rfl⟩ := fetch_issue hf
    obtain ⟨u, hu⟩ := recordStep_progress (f := f) (s := { s with px := 0, ft := filterCode f }) hrun hs hstream hpalette
    exact ⟨_, by dsimp only; rw [exec_filterInstr, hu]; rfl⟩

/-- Settles O50: a reset input that is due is taken; else the step is a record, all of whose reads find a value and all of whose
stores an address. -/
theorem runningDecodeNeverStuck : Obligations.RunningDecodeNeverStuck := by
  unfold Obligations.RunningDecodeNeverStuck
  intro s hrun hs hstream hpalette
  have hrecord : ∀ r, ∃ t, stepOn { s with resetIn := r } = .next t := fun r => by
    rw [stepOn_of_run (s := { s with resetIn := r }) hrun]
    exact stepRecord_progress hrun hs hstream hpalette
  unfold step
  split
  · exact ⟨_, rfl⟩
  · exact hrecord _
  · exact hrecord s.resetIn

/-! ### Addresses -/

/-- Settles O23: the address is its definition; a pass has just the coordinates whose transform lies in the image. -/
theorem passAddressesInRange : Obligations.PassAddressesInRange := by
  unfold Obligations.PassAddressesInRange
  refine ⟨fun _ _ _ _ _ => rfl, fun _ _ _ => rfl, fun t k w h x y htable hk hx hy => ?_⟩
  obtain ⟨hsx, hsy, -, -⟩ := geometryOk_pos (tableOk_geometry htable hk)
  have hpx : (xform t k x y).1 < w := (lt_axisCount hsx).1 hx
  have hpy : (xform t k x y).2 < h := (lt_axisCount hsy).1 hy
  exact ⟨hpx, hpy, linAddr_lt hpx hpy⟩

/-! ### C.ENCSUB at a pixel that holds no value -/

/-- `a` is the lowest address of FB that holds no value. -/
def FirstHole (s : State) (a : Nat) : Prop := memRead s.fb a = none ∧ ∀ b < a, (memRead s.fb b).isSome

theorem FirstHole.exists_readFb {s : State} {a b : Nat} (h : FirstHole s a) (hb : b < a) : ∃ p, readFb s b = .ok p := by
  obtain ⟨p, hp⟩ := Option.isSome_iff_exists.1 (h.2 b hb)
  exact ⟨p, readFb_eq_ok.2 hp⟩

theorem FirstHole.filteredSource_before {s : State} {a x y : Nat} (h : FirstHole s a) (hlt : y * s.width.toNat + x < a) :
    ∃ d, filteredSource s y x = .ok d := by
  obtain ⟨p, hp⟩ := h.exists_readFb hlt
  rw [filteredSource, hp]
  split
  · obtain ⟨l, hl⟩ := h.exists_readFb (b := y * s.width.toNat + x - 1) (by omega)
    exact ⟨_, by rw [hl]; rfl⟩
  · exact ⟨_, rfl⟩

/-- A filtered pixel reads its own pixel first (44_commands.md R226). -/
theorem FirstHole.filteredSource_at {s : State} {a x y : Nat} (h : FirstHole s a) (hat : y * s.width.toNat + x = a) :
    filteredSource s y x = .error (.noValue .fb a) := by
  rw [filteredSource, hat, readFb, h.1]
  rfl

theorem FirstHole.encodeRow_before {s : State} {a y n x : Nat} (h : FirstHole s a) (hlt : y * s.width.toNat + x + n ≤ a) :
    ∃ bytes, encodeRow s y n x = .ok bytes := by
  induction n generalizing x with
  | zero => exact ⟨[], rfl⟩
  | succ n ih =>
    obtain ⟨d, hd⟩ := h.filteredSource_before (x := x) (y := y) (by omega)
    obtain ⟨rest, hrest⟩ := ih (x := x + 1) (by omega)
    exact ⟨_, by rw [encodeRow, hd, hrest]; rfl⟩

/-- A row that reaches the hole is stuck there: its pixels before it are there. -/
theorem FirstHole.encodeRow_at {s : State} {a y n x : Nat} (h : FirstHole s a) (hle : y * s.width.toNat + x ≤ a)
    (hlt : a < y * s.width.toNat + x + n) : encodeRow s y n x = .error (.noValue .fb a) := by
  induction n generalizing x with
  | zero => omega
  | succ n ih =>
    rw [encodeRow]
    rcases Nat.eq_or_lt_of_le hle with hat | hbefore
    · rw [h.filteredSource_at hat]; rfl
    · obtain ⟨d, hd⟩ := h.filteredSource_before hbefore
      rw [hd, ih (x := x + 1) (by omega) (by omega)]; rfl

/-- Rows that reach the hole are stuck there. -/
theorem FirstHole.encodeRows_at {s : State} {a n y : Nat} (h : FirstHole s a) (hle : y * s.width.toNat ≤ a)
    (hlt : a < (y + n) * s.width.toNat) : encodeRows s n y = .error (.noValue .fb a) := by
  induction n generalizing y with
  | zero => exact absurd hlt hle.not_gt
  | succ n ih =>
    rw [encodeRows]
    rcases Nat.lt_or_ge a ((y + 1) * s.width.toNat) with hrow | hlater
    · rw [Nat.add_one_mul] at hrow
      rw [h.encodeRow_at (x := 0) hle hrow]; rfl
    · obtain ⟨row, hrow⟩ := h.encodeRow_before (x := 0) (y := y) (n := s.width.toNat) (by rwa [Nat.add_one_mul] at hlater)
      rw [hrow, ih hlater (by rwa [Nat.add_right_comm])]; rfl

theorem execCEncsub_of_error {s : State} {e : Fault} (hidle : s.run = .idle) (hw : s.width ≠ 0) (hh : s.height ≠ 0)
    (hfb : fits s.params.fbCapacity (area s) = true) (hout : fits s.params.outCapacity (encodedLength s) = true)
    (h : encodeRows (beginEncode s) s.height.toNat 0 = .error e) : execCEncsub s = .fault e := by
  have hzero : ¬ ((beginEncode s).width = 0 ∨ (beginEncode s).height = 0) := not_or.2 ⟨hw, hh⟩
  have hfull : ¬ (¬ fits (beginEncode s).params.fbCapacity (area (beginEncode s)) ∨
      ¬ fits (beginEncode s).params.outCapacity (encodedLength (beginEncode s))) :=
    not_or.2 ⟨not_not.2 hfb, not_not.2 hout⟩
  rw [execCEncsub, if_pos hidle]
  dsimp only
  rw [if_neg hzero, if_neg hfull, beginEncode_height, h]

/-- Settles O36: after its checks the command reads FB from address 0 up, so the first hole stops it. -/
theorem encsubStuckOnMissingPixel : Obligations.EncsubStuckOnMissingPixel := by
  unfold Obligations.EncsubStuckOnMissingPixel
  intro s a hidle hw hh hfb hout ha hmissing hbefore
  have hhole : FirstHole (beginEncode s) a := ⟨hmissing, hbefore⟩
  have hlt : a < (0 + s.height.toNat) * s.width.toNat := by rwa [Nat.zero_add, Nat.mul_comm]
  exact execCEncsub_of_error hidle hw hh hfb hout (hhole.encodeRows_at (y := 0) (by simp) hlt)

/-! ### The host port -/

theorem inSpace_pal {p : Params} {a : Nat} : inSpace p .pal a = true ↔ a < p.palEntries ∧ a < 256 := by
  simp [inSpace, lt_palSize]

theorem inSpace_pal_eq_false {p : Params} {a : Nat} : inSpace p .pal a = false ↔ p.palEntries ≤ a ∨ 256 ≤ a := by
  rw [Bool.eq_false_iff, Ne, inSpace_pal]
  omega

theorem hostStore_settled {s t : State} {sp : Space} {a : Nat} (hidle : s.run = .idle)
    (h : inSpace s.params sp a = true) : hostStore s sp a t = .settled t := by
  simp [hostStore, hidle, h]

theorem hostStore_outside {s t : State} {sp : Space} {a : Nat} (hidle : s.run = .idle)
    (h : inSpace s.params sp a = false) : hostStore s sp a t = .refuse (.hostOutsideSpace sp a) := by
  simp [hostStore, hidle, h]

/-- Settles O42: in IDLE the address decides whether the move is a write of one unit or refused. -/
theorem hostWritesMemoryInIdle : Obligations.HostWritesMemoryInIdle := by
  unfold Obligations.HostWritesMemoryInIdle
  intro s a rest hreset hidle
  have hrun : s.run ≠ .run := by simp [hidle]
  refine ⟨fun v hhost => ⟨fun h => ?_, fun h => ?_⟩, fun v hhost => ⟨fun hentries h256 => ?_, fun h => ?_⟩,
    fun v hhost => ⟨fun h => ?_, fun h => ?_⟩⟩
  · exact ⟨_, step_of_settled hreset hrun hhost (hostStore_settled hidle h), memRead_memWrite a v s.input⟩
  · exact step_of_refuse hreset hrun hhost (hostStore_outside hidle h)
  · exact ⟨_, step_of_settled hreset hrun hhost (hostStore_settled hidle (inSpace_pal.2 ⟨hentries, h256⟩)),
      memRead_memWrite a v s.pal⟩
  · exact step_of_refuse hreset hrun hhost (hostStore_outside hidle (inSpace_pal_eq_false.2 h))
  · exact ⟨_, step_of_settled hreset hrun hhost (hostStore_settled hidle h), memRead_memWrite a v s.fb⟩
  · exact step_of_refuse hreset hrun hhost (hostStore_outside hidle h)

/-- A host move that is stuck stops the machine. -/
theorem step_of_stuck {s : State} {op : HostOp} {rest : List HostOp} {f : Fault} (hreset : s.resetIn = none)
    (hrun : s.run ≠ .run) (hhost : s.host = op :: rest) (hmove : hostMove op { s with host := rest } = .stuck f) :
    step s = .fault f := by
  rw [step_of_resetIn_none hreset, stepOn_of_not_run hrun]
  simp [stepHost, hhost, hmove]

/-- A host read inside a space: the unit of the space's memory, or stuck where there is none (20_memory.md R70, R79). -/
theorem step_of_read {s : State} {sp : Space} {w a : Nat} {m : Cells w} {rest : List HostOp} (hreset : s.resetIn = none)
    (hrun : s.run ≠ .run) (hhost : s.host = .read sp a :: rest) (h : inSpace s.params sp a = true)
    (hm : readUnit { s with host := rest } sp a = (memRead m a).map BitVec.toNat) :
    (∀ v, memRead m a = some v → step s = .next { s with host := rest, hostData := v.toNat }) ∧
    (memRead m a = none → step s = .fault (.noValue sp a)) := by
  refine ⟨fun v hv => step_of_settled hreset hrun hhost ?_, fun hnone => step_of_stuck hreset hrun hhost ?_⟩
  · simp [hostMove, h, hm, hv]
  · simp [hostMove, h, hm, hnone]

/-- Settles O44: a read inside a space answers the unit there, in each of the four spaces. -/
theorem hostReadsMemory : Obligations.HostReadsMemory := by
  unfold Obligations.HostReadsMemory
  intro s a rest hreset hrun
  exact ⟨fun hhost h => step_of_read hreset hrun hhost h rfl, fun hhost h => step_of_read hreset hrun hhost h rfl,
    fun hhost h => step_of_read hreset hrun hhost h rfl,
    fun hhost hentries h256 => step_of_read hreset hrun hhost (inSpace_pal.2 ⟨hentries, h256⟩) rfl⟩

end Sys2Proof.Machine
end

section
/-! PROOFS. The encoding (30_encoding.md): which codes each decoder takes, that decoder and encoder agree, and that the samples
of a row lie in the bytes of the row. -/

namespace Sys2Proof.Machine

/-! ### The filter-type byte -/

theorem decode_filterCode (f : Filter) : decode (.record (filterCode f)) = .ok (filterInstr f) := by
  cases f <;> rfl

theorem encode_filterInstr (f : Filter) : encode (filterInstr f) = some (.record (filterCode f)) := by
  cases f <;> rfl

/-- A byte up to 4 is a filter type of the opcode map (30_encoding.md R92). -/
theorem exists_filterCode {b : Byte} (h : b.toNat ≤ 4) : ∃ f, b = filterCode f := by
  have hcode : b.toNat = 0 ∨ b.toNat = 1 ∨ b.toNat = 2 ∨ b.toNat = 3 ∨ b.toNat = 4 := by omega
  rcases hcode with h0 | h1 | h2 | h3 | h4
  · exact ⟨.none, BitVec.eq_of_toNat_eq h0⟩
  · exact ⟨.sub, BitVec.eq_of_toNat_eq h1⟩
  · exact ⟨.up, BitVec.eq_of_toNat_eq h2⟩
  · exact ⟨.avg, BitVec.eq_of_toNat_eq h3⟩
  · exact ⟨.paeth, BitVec.eq_of_toNat_eq h4⟩

theorem decode_record_of_reserved {b : Byte} (h : 4 < b.toNat) :
    decode (.record b) = .error (.illegalFilterType b) := by
  simp only [decode, decodeRecord]
  split
  case h_6 => rfl
  all_goals omega

/-- The record decoder takes the five filter types and nothing else (30_encoding.md R92, R102). -/
theorem decode_record_eq_ok {b : Byte} {i : Instr} :
    decode (.record b) = .ok i ↔ ∃ f, b = filterCode f ∧ i = filterInstr f := by
  constructor
  · intro h
    rcases Nat.lt_or_ge 4 b.toNat with hreserved | hle
    · cases (decode_record_of_reserved hreserved).symm.trans h
    · obtain ⟨f, rfl⟩ := exists_filterCode hle
      exact ⟨f, rfl, Except.ok.inj (h.symm.trans (decode_filterCode f))⟩
  · rintro ⟨f, rfl, rfl⟩
    exact decode_filterCode f

/-! ### The command code -/

theorem decode_ctrl_of_reserved {b : Byte} (h : b.toNat = 0 ∨ 3 < b.toNat) :
    decode (.ctrl b) = .error (.reservedCommand b) := by
  simp only [decode, decodeCommand]
  split
  case h_4 => rfl
  all_goals omega

/-- The command decoder takes the three commands and nothing else (30_encoding.md R105). -/
theorem decode_ctrl_eq_ok {b : Byte} {i : Instr} :
    decode (.ctrl b) = .ok i ↔ (b = 1 ∧ i = .cDecode) ∨ (b = 2 ∧ i = .cEncsub) ∨ (b = 3 ∧ i = .cClear) := by
  constructor
  · intro h
    have hcode : (b.toNat = 0 ∨ 3 < b.toNat) ∨ b.toNat = 1 ∨ b.toNat = 2 ∨ b.toNat = 3 := by omega
    rcases hcode with hreserved | h1 | h2 | h3
    · cases (decode_ctrl_of_reserved hreserved).symm.trans h
    · obtain rfl : b = 1 := BitVec.eq_of_toNat_eq h1
      exact .inl ⟨rfl, (Except.ok.inj h).symm⟩
    · obtain rfl : b = 2 := BitVec.eq_of_toNat_eq h2
      exact .inr (.inl ⟨rfl, (Except.ok.inj h).symm⟩)
    · obtain rfl : b = 3 := BitVec.eq_of_toNat_eq h3
      exact .inr (.inr ⟨rfl, (Except.ok.inj h).symm⟩)
  · rintro (⟨rfl, rfl⟩ | ⟨rfl, rfl⟩ | ⟨rfl, rfl⟩) <;> rfl

/-! ### Decoder and encoder -/

/-- The code of an instruction decodes to it, with the operands on the wires of a PAU code; an internal operation has no code
(30_encoding.md R92, R105, R106). -/
theorem decode_of_encode {i : Instr} {c : Code} (h : encode i = some c) : decode c = .ok i := by
  cases i with
  | fNone | fSub | fUp | fAvg | fPaeth => cases h; rfl
  | cDecode | cEncsub | cClear => cases h; rfl
  | pAdd | pSub | pAvg | pPaeth => cases h; rfl
  | uExtract | uCompose | uPalette | sDims | sXform => cases h

theorem encode_of_decode_record {b : Byte} {i : Instr} (h : decode (.record b) = .ok i) : encode i = some (.record b) := by
  obtain ⟨f, rfl, rfl⟩ := decode_record_eq_ok.1 h
  exact encode_filterInstr f

theorem encode_of_decode_ctrl {b : Byte} {i : Instr} (h : decode (.ctrl b) = .ok i) : encode i = some (.ctrl b) := by
  rcases decode_ctrl_eq_ok.1 h with ⟨rfl, rfl⟩ | ⟨rfl, rfl⟩ | ⟨rfl, rfl⟩ <;> rfl

/-- Settles O1: the encoder's codes case by case; back again by what the record and the command decoder take. -/
theorem decodeEncodeRoundTrip : Obligations.DecodeEncodeRoundTrip := by
  unfold Obligations.DecodeEncodeRoundTrip
  exact ⟨fun _ _ => decode_of_encode, fun _ _ => encode_of_decode_record, fun _ _ => encode_of_decode_ctrl⟩

/-- Settles O2: the five bytes are the filter codes, the three command codes are those the command decoder takes, and each PAU
select is one operation. -/
theorem tabledWordsDecode : Obligations.TabledWordsDecode := by
  unfold Obligations.TabledWordsDecode
  refine ⟨decode_filterCode .none, decode_filterCode .sub, decode_filterCode .up, decode_filterCode .avg,
    decode_filterCode .paeth, ?_, ?_, ?_, fun a b c => ⟨rfl, rfl, rfl, rfl⟩⟩
  · exact decode_ctrl_eq_ok.2 (.inl ⟨rfl, rfl⟩)
  · exact decode_ctrl_eq_ok.2 (.inr (.inl ⟨rfl, rfl⟩))
  · exact decode_ctrl_eq_ok.2 (.inr (.inr ⟨rfl, rfl⟩))

/-- Settles O3: each of the two decoders falls through to its own rejection, which names the code. -/
theorem reservedCodesRejected : Obligations.ReservedCodesRejected := by
  unfold Obligations.ReservedCodesRejected
  exact ⟨fun _ => decode_record_of_reserved, fun _ => decode_ctrl_of_reserved⟩

/-! ### The row of a record -/

/-- The samples per pixel of the five legal colour types (30_encoding.md R98). -/
theorem samplesPerPixel_of_legal {ctype : Byte} {spp : Nat}
    (h : (ctype, spp) ∈ [((0 : Byte), 1), (2, 3), (3, 1), (4, 2), (6, 4)]) : samplesPerPixel ctype = spp := by
  simp only [List.mem_cons, List.not_mem_nil, or_false, Prod.mk.injEq] at h
  rcases h with ⟨rfl, rfl⟩ | ⟨rfl, rfl⟩ | ⟨rfl, rfl⟩ | ⟨rfl, rfl⟩ | ⟨rfl, rfl⟩ <;> rfl

/-- `ROWBYTES` is the bits of the row in whole bytes (30_encoding.md R91). -/
theorem rowBytes_eq (s : State) : rowBytes s = (s.pw.toNat * samplesPerPixel s.ctype * s.depth.toNat + 7) / 8 := rfl

/-- Settles O16: the byte of a sample stands a quotient above the first byte of the row, and that quotient is below ROWBYTES. -/
theorem samplesLieInTheirRow : Obligations.SamplesLieInTheirRow := by
  unfold Obligations.SamplesLieInTheirRow
  intro s hdepth
  refine ⟨fun i hi => ⟨Nat.le_add_right _ _, sampleAddr_lt hdepth hi⟩, fun spp hspp => ?_, fun i => rfl⟩
  have hsamples := samplesPerPixel_of_legal hspp
  exact ⟨hsamples, by rw [rowBytes_eq, hsamples]⟩

end Sys2Proof.Machine
end

section
/-! PROOFS. Pixel arithmetic (40_pixel_arithmetic.md): what each operation does to one lane, and from that what it does to a
pixel, by `lane_lanes2`, `lane_lanes3` and `pixel_ext`. -/

namespace Sys2Proof.Machine

/-! ### One lane -/

theorem toNat_addLane (x y : Byte) : (addLane x y).toNat = (x.toNat + y.toNat) % 256 := BitVec.toNat_ofNat _ _

/-- The residue of the difference is the non-negative one (40_pixel_arithmetic.md R122). -/
theorem toNat_subLane (x y : Byte) : ((subLane x y).toNat : Int) = ((x.toNat : Int) - (y.toNat : Int)) % 256 := by
  rw [subLane, BitVec.toNat_ofInt]
  exact Int.toNat_of_nonneg (Int.emod_nonneg _ (by decide))

/-- Half of a nine-bit sum fits a byte, so no bit is lost (40_pixel_arithmetic.md R123). -/
theorem toNat_avgLane (x y : Byte) : (avgLane x y).toNat = (x.toNat + y.toNat) / 2 := by
  have hx := x.isLt
  have hy := y.isLt
  rw [avgLane, BitVec.toNat_ofNat, Nat.shiftRight_eq_div_pow]
  omega

/-- Taking away what was added gives the lane back. -/
theorem subLane_addLane (x y : Byte) : subLane (addLane x y) y = x := by
  have hx := x.isLt
  have h := toNat_subLane (addLane x y) y
  rw [toNat_addLane] at h
  apply BitVec.eq_of_toNat_eq
  omega

/-- The predictor's choice by the distances of the rule's second form, in which the prediction `a + b - c` is cancelled
against each neighbour (40_pixel_arithmetic.md R124). -/
theorem paethLane_eq (a b c : Byte) :
    paethLane a b c =
      if |(b.toNat : Int) - c.toNat| ≤ |(a.toNat : Int) - c.toNat| ∧
          |(b.toNat : Int) - c.toNat| ≤ |(a.toNat : Int) + b.toNat - 2 * c.toNat| then a
      else if |(a.toNat : Int) - c.toNat| ≤ |(a.toNat : Int) + b.toNat - 2 * c.toNat| then b else c := by
  have hleft : (a.toNat : Int) + b.toNat - c.toNat - a.toNat = b.toNat - c.toNat := by omega
  have habove : (a.toNat : Int) + b.toNat - c.toNat - b.toNat = a.toNat - c.toNat := by omega
  have hcorner : (a.toNat : Int) + b.toNat - c.toNat - c.toNat = a.toNat + b.toNat - 2 * c.toNat := by omega
  simp only [paethLane, hleft, habove, hcorner, Int.abs_eq_natAbs, Int.ofNat_le]

/-- Where above and above-left agree the prediction is the left neighbour. -/
theorem paethLane_of_above_eq_corner (a c : Byte) : paethLane a c c = a := by
  rw [paethLane_eq, sub_self, abs_zero]
  exact if_pos ⟨abs_nonneg _, abs_nonneg _⟩

/-- Where left and above-left agree the prediction is the above neighbour; the tie goes to left only where all three agree. -/
theorem paethLane_of_left_eq_corner (b c : Byte) : paethLane c b c = b := by
  rw [paethLane_eq, sub_self, abs_zero]
  split
  case isTrue h =>
    have hagree : (b.toNat : Int) - c.toNat = 0 := abs_nonpos_iff.1 h.1
    exact BitVec.eq_of_toNat_eq (by omega)
  case isFalse => exact if_pos (abs_nonneg _)

/-! ### The four lanes of a pixel -/

theorem lane_zero (l : Nat) : lane 0 l = 0 := BitVec.extractLsb'_zero

theorem lane_pauAdd (p q : Pixel) {l : Nat} (h : l < 4) : lane (pauAdd p q) l = addLane (lane p l) (lane q l) :=
  lane_lanes2 addLane p q h

theorem lane_pauSub (p q : Pixel) {l : Nat} (h : l < 4) : lane (pauSub p q) l = subLane (lane p l) (lane q l) :=
  lane_lanes2 subLane p q h

theorem lane_pauAvg (p q : Pixel) {l : Nat} (h : l < 4) : lane (pauAvg p q) l = avgLane (lane p l) (lane q l) :=
  lane_lanes2 avgLane p q h

theorem lane_pauPaeth (a b c : Pixel) {l : Nat} (h : l < 4) :
    lane (pauPaeth a b c) l = paethLane (lane a l) (lane b l) (lane c l) :=
  lane_lanes3 paethLane a b c h

/-! ### The four operations: the select, the result port, the lanes -/

/-- Settles O9: each lane of the result is `addLane` of that lane of the operands. -/
theorem addIsLanewiseModulo256 : Obligations.AddIsLanewiseModulo256 := by
  unfold Obligations.AddIsLanewiseModulo256
  refine fun p q s => ⟨fun _ => rfl, pauAdd p q, rfl, fun l hl => ?_⟩
  rw [lane_pauAdd p q hl, toNat_addLane]

/-- Settles O10: each lane of the result is `subLane` of that lane of the operands. -/
theorem subIsLanewiseModulo256 : Obligations.SubIsLanewiseModulo256 := by
  unfold Obligations.SubIsLanewiseModulo256
  refine fun p q s => ⟨fun _ => rfl, pauSub p q, rfl, fun l hl => ?_⟩
  rw [lane_pauSub p q hl, toNat_subLane]

/-- Settles O11: each lane of the result is `avgLane` of that lane of the operands. -/
theorem avgIsLanewiseFloor : Obligations.AvgIsLanewiseFloor := by
  unfold Obligations.AvgIsLanewiseFloor
  refine fun p q s => ⟨fun _ => rfl, pauAvg p q, rfl, fun l hl => ?_⟩
  rw [lane_pauAvg p q hl, toNat_avgLane]

/-- Settles O12: each lane of the result is `paethLane` of that lane of the neighbours, in the rule's second form. -/
theorem paethPicksNearestLane : Obligations.PaethPicksNearestLane := by
  unfold Obligations.PaethPicksNearestLane
  refine fun a b c s => ⟨rfl, pauPaeth a b c, rfl, fun l hl => ?_⟩
  rw [lane_pauPaeth a b c hl]
  exact paethLane_eq _ _ _

/-- Settles O13: lane by lane, each of the two operations takes the other back. -/
theorem addAndSubAreInverse : Obligations.AddAndSubAreInverse := by
  unfold Obligations.AddAndSubAreInverse
  refine fun p q => ⟨pixel_ext fun l hl => ?_, pixel_ext fun l hl => ?_⟩
  · rw [lane_pauAdd _ _ hl, lane_pauSub _ _ hl, addLane_subLane]
  · rw [lane_pauSub _ _ hl, lane_pauAdd _ _ hl, subLane_addLane]

/-- Settles O14: in each case two neighbours agree, and the prediction is the third. -/
theorem paethOfMissingNeighbours : Obligations.PaethOfMissingNeighbours := by
  unfold Obligations.PaethOfMissingNeighbours
  refine fun a b => ⟨pixel_ext fun l hl => ?_, pixel_ext fun l hl => ?_, pixel_ext fun l hl => ?_⟩
  · rw [lane_pauPaeth _ _ _ hl, lane_zero, paethLane_of_above_eq_corner]
  · rw [lane_pauPaeth _ _ _ hl, lane_zero, paethLane_of_left_eq_corner]
  · rw [lane_pauPaeth _ _ _ hl, paethLane_of_above_eq_corner]

end Sys2Proof.Machine
end

section
/-! PROOFS. The unpacker (41_bit_depth_unpacker.md): the value of a sample, the raw pixel word of each colour type, and the
three ends of a palette lookup. -/

namespace Sys2Proof.Machine

/-! ### Sample extraction -/

/-- Shift and mask as division and remainder; a sample of at most eight bits loses nothing in its byte
(41_bit_depth_unpacker.md R140). -/
theorem toNat_sampleOfByte (byte : Byte) {depth : Nat} (i : Nat) (h : depth ≤ 8) :
    (sampleOfByte byte depth i).toNat = byte.toNat / 2 ^ sampleShift depth i % 2 ^ depth := by
  have hmask : byte.toNat / 2 ^ sampleShift depth i % 2 ^ depth < 2 ^ 8 :=
    (Nat.mod_lt _ (Nat.two_pow_pos depth)).trans_le (Nat.pow_le_pow_right (by decide) h)
  rw [sampleOfByte, Nat.one_shiftLeft, Nat.and_two_pow_sub_one_eq_mod, Nat.shiftRight_eq_div_pow, BitVec.toNat_ofNat,
    Nat.mod_eq_of_lt hmask]

theorem extractSample_of_byte {s : State} {base depth i : Nat} {byte : Byte}
    (h : memRead s.input (sampleAddr base depth i) = some byte) :
    extractSample s base depth i = .ok (sampleOfByte byte depth i) := by
  rw [extractSample, readIn_eq_ok.2 h]
  rfl

theorem execUExtract_of_ok {s : State} {base depth i : Nat} {b : Byte} (hdepth : depth ∈ [1, 2, 4, 8])
    (h : extractSample s base depth i = .ok b) : exec (.uExtract base depth i) s = .next { s with result := .sample b } := by
  show execUExtract base depth i s = _
  simp [execUExtract, depthOperandOk_of_mem hdepth, h, deliver]

theorem execUExtract_of_error {s : State} {base depth i : Nat} {e : Fault} (hdepth : depth ∈ [1, 2, 4, 8])
    (h : extractSample s base depth i = .error e) : exec (.uExtract base depth i) s = .fault e := by
  show execUExtract base depth i s = _
  simp [execUExtract, depthOperandOk_of_mem hdepth, h]

/-- Settles O15: the byte at the sample's address, there or not, decides; shift and mask are a quotient and a remainder. -/
theorem extractTakesSample : Obligations.ExtractTakesSample := by
  unfold Obligations.ExtractTakesSample
  intro s base depth i hdepth
  have hle : depth ≤ 8 := (by decide : ∀ d ∈ [1, 2, 4, 8], d ≤ 8) depth hdepth
  exact ⟨fun byte hbyte => ⟨_, execUExtract_of_ok hdepth (extractSample_of_byte hbyte), toNat_sampleOfByte byte i hle⟩,
    fun hmissing => execUExtract_of_error hdepth (extractSample_of_none hmissing)⟩

/-! ### Widening -/

theorem widenSample_one (t : WidenTable) (b : Byte) : widenSample t 1 b = t.d1[b.toNat]?.getD b :=
  List.getD_eq_getElem?_getD

theorem widenSample_two (t : WidenTable) (b : Byte) : widenSample t 2 b = t.d2[b.toNat]?.getD b :=
  List.getD_eq_getElem?_getD

theorem widenSample_four (t : WidenTable) (b : Byte) : widenSample t 4 b = t.d4[b.toNat]?.getD b :=
  List.getD_eq_getElem?_getD

/-- The identity at depth 8, whatever the parameter (41_bit_depth_unpacker.md R143). -/
theorem widenSample_eight (t : WidenTable) (b : Byte) : widenSample t 8 b = b := rfl

/-- Zero-extension at every legal depth under the default parameter, whose lists are empty (41_bit_depth_unpacker.md R143). -/
theorem widenSample_default {depth : Nat} (b : Byte) (h : depth ∈ [1, 2, 4, 8]) : widenSample defaultWiden depth b = b := by
  simp only [List.mem_cons, List.not_mem_nil, or_false] at h
  rcases h with rfl | rfl | rfl | rfl <;> rfl

/-- Settles O18: a depth with a list looks the sample up there and falls back on the sample itself. -/
theorem widenDefaultIsZeroExtension : Obligations.WidenDefaultIsZeroExtension := by
  unfold Obligations.WidenDefaultIsZeroExtension
  refine ⟨widenSample_eight, fun t b v => ⟨fun h => ?_, fun h => ?_, fun h => ?_⟩,
    fun t b => ⟨fun h => ?_, fun h => ?_, fun h => ?_⟩, fun depth b hdepth => widenSample_default b hdepth⟩
  · rw [widenSample_one, h, Option.getD_some]
  · rw [widenSample_two, h, Option.getD_some]
  · rw [widenSample_four, h, Option.getD_some]
  · rw [widenSample_one, h, Option.getD_none]
  · rw [widenSample_two, h, Option.getD_none]
  · rw [widenSample_four, h, Option.getD_none]

/-! ### Composition -/

/-- The raw pixel word of a colour type whose channels have the lane values `w`, in channel order (41_bit_depth_unpacker.md
R142). -/
def composeWord (ctype : Byte) (w : Nat → Byte) : Pixel :=
  if ctColor ctype then pack (w 0) (w 1) (w 2) (if ctAlpha ctype then w 3 else 0)
  else pack (w 0) (w 0) (w 0) (if ctAlpha ctype then w 1 else 0)

/-- The composition of a pixel whose channels are all there. -/
theorem composePixel_eq_composeWord {s : State} {x : Nat} {w : Nat → Byte} (hindexed : ctIndexed s.ctype = false)
    (h : ∀ c < samplesPerPixel s.ctype, channelSample s x c = .ok (w c)) : composePixel s x = .ok (composeWord s.ctype w) := by
  simp only [samplesPerPixel, hindexed, Bool.false_eq_true, if_false] at h
  unfold composePixel alphaSample composeWord
  cases hcolor : ctColor s.ctype <;> cases halpha : ctAlpha s.ctype <;> simp only [hcolor, halpha, if_true] at h ⊢
  case false.false => rw [h 0 (by decide)]; rfl
  case false.true => rw [h 0 (by decide), h 1 (by decide)]; rfl
  case true.false => rw [h 0 (by decide), h 1 (by decide), h 2 (by decide)]; rfl
  case true.true => rw [h 0 (by decide), h 1 (by decide), h 2 (by decide), h 3 (by decide)]; rfl

/-- The raw pixel word, colour type by colour type (41_bit_depth_unpacker.md R142). -/
theorem composeWord_of_composed {ctype : Byte} {spp : Nat} (w : Nat → Byte)
    (h : (ctype, spp) ∈ [((0 : Byte), 1), (2, 3), (4, 2), (6, 4)]) :
    composeWord ctype w =
      if ctype = 0 then pack (w 0) (w 0) (w 0) 0
      else if ctype = 2 then pack (w 0) (w 1) (w 2) 0
      else if ctype = 4 then pack (w 0) (w 0) (w 0) (w 1)
      else pack (w 0) (w 1) (w 2) (w 3) := by
  simp only [List.mem_cons, List.not_mem_nil, or_false, Prod.mk.injEq] at h
  rcases h with ⟨rfl, rfl⟩ | ⟨rfl, rfl⟩ | ⟨rfl, rfl⟩ | ⟨rfl, rfl⟩ <;> rfl

theorem execUCompose_of_ok {s : State} {x : Nat} {v : Pixel} (hdepth : s.depth.toNat ∈ [1, 2, 4, 8])
    (hindexed : ctIndexed s.ctype = false) (hlegal : legalCtype s.ctype = true) (h : composePixel s x = .ok v) :
    exec (.uCompose x) s = .next (loadV v s) := by
  show execUCompose x s = _
  simp [execUCompose, depthOperandOk_of_mem hdepth, hindexed, hlegal, h]

/-- Settles O17: the samples the statement names are the channels of the pixel, and their word is the colour type's. -/
theorem composeByColourType : Obligations.ComposeByColourType := by
  unfold Obligations.ComposeByColourType
  intro s x spp raw hdepth htype hraw w word
  obtain ⟨hindexed, hlegal, rfl⟩ := composed_ctype htype
  have hchannels : ∀ c < samplesPerPixel s.ctype, channelSample s x c = .ok (w c) := fun c hc =>
    channelSample_of_ok (hraw c hc)
  have hword : composePixel s x = .ok word :=
    (composePixel_eq_composeWord hindexed hchannels).trans (congrArg _ (composeWord_of_composed w htype))
  exact execUCompose_of_ok hdepth hindexed hlegal hword

/-! ### Palette lookup -/

/-- An entry keeps the order of its channels, and alpha stands below them (41_bit_depth_unpacker.md R144). -/
theorem palettePixel_eq_append (e : PalEntry) : palettePixel e = e ++ (0xFF : Byte) := by
  have he := e.isLt
  apply BitVec.eq_of_toNat_eq
  rw [palettePixel, toNat_pack, BitVec.toNat_append, ← Nat.shiftLeft_add_eq_or_of_lt (BitVec.isLt _)]
  simp only [BitVec.extractLsb'_toNat, Nat.shiftRight_eq_div_pow, Nat.shiftLeft_eq]
  omega

theorem execUPalette_eq {s : State} (x : Nat) (hdepth : s.depth.toNat ∈ [1, 2, 4, 8]) :
    exec (.uPalette x) s = flowOutcome (lookupPixel s x) := by
  show execUPalette x s = _
  simp [execUPalette, depthOperandOk_of_mem hdepth]

section Lookup

variable {s : State} {x : Nat} {i : Byte}

theorem lookupPixel_of_entry {e : PalEntry} (hi : extractSample s (s.cur + 1) s.depth.toNat x = .ok i)
    (hlen : i.toNat < s.palLen.toNat) (he : memRead s.pal i.toNat = some e) :
    lookupPixel s x = .go (loadV (palettePixel e) s) := by
  simp [lookupPixel, hi, hlen, readPal_eq_ok.2 he]

theorem lookupPixel_of_no_entry (hi : extractSample s (s.cur + 1) s.depth.toNat x = .ok i)
    (hlen : i.toNat < s.palLen.toNat) (hmissing : memRead s.pal i.toNat = none) :
    lookupPixel s x = .stuck (.noValue .pal i.toNat) := by
  simp [lookupPixel, hi, hlen, readPal, hmissing]

theorem lookupPixel_of_palLen_le (hi : extractSample s (s.cur + 1) s.depth.toNat x = .ok i)
    (hlen : s.palLen.toNat ≤ i.toNat) :
    lookupPixel s x = .ended (takeFault .decode .palidx (i.setWidth 32) { s with px := BitVec.ofNat 32 x }) := by
  simp [lookupPixel, hi, hlen]

end Lookup

/-- Settles O19: the index against PAL_LEN, then the entry, decide between the three ends of the lookup; the third is the
fault entry with PX at the column. -/
theorem paletteLooksUpOrFaults : Obligations.PaletteLooksUpOrFaults := by
  unfold Obligations.PaletteLooksUpOrFaults
  intro s x i hdepth hi
  rw [execUPalette_eq x hdepth]
  refine ⟨fun e hlen he => ?_, fun hlen hmissing => ?_, fun hlen hx => ?_⟩
  · rw [lookupPixel_of_entry hi hlen he, palettePixel_eq_append]
    rfl
  · rw [lookupPixel_of_no_entry hi hlen hmissing]
    rfl
  · rw [lookupPixel_of_palLen_le hi hlen]
    refine ⟨_, rfl, rfl, rfl, ?_, rfl, ?_, takeFault_eq _ _ _ _, fun a ha => takeFault_decode_fb_above _ _ _ ha⟩
    · rw [takeFault_errInfo, BitVec.toNat_setWidth_of_le (by decide)]
    · rw [takeFault_px, BitVec.toNat_ofNat, Nat.mod_eq_of_lt hx]

end Sys2Proof.Machine
end

section
/-! PROOFS. The scanline reconstructor (42_scanline_reconstructor.md): what a whole record stores, pixel by pixel, how it
faults, and which executions are refused. -/

namespace Sys2Proof.Machine

/-! ### The pixel loop, column by column -/

theorem flowThen_assoc (r : Flow) (k l : State → Flow) :
    flowThen (flowThen r k) l = flowThen r fun s => flowThen (k s) l := by
  cases r <;> rfl

theorem pixelLoop_add (f : Filter) (m n x : Nat) (s : State) :
    pixelLoop f (m + n) x s = flowThen (pixelLoop f m x s) (pixelLoop f n (x + m)) := by
  induction m generalizing x s with
  | zero => rw [Nat.zero_add]; rfl
  | succ m ih =>
    rw [Nat.add_right_comm, pixelLoop, pixelLoop, flowThen_assoc, Nat.add_comm m 1, ← Nat.add_assoc]
    exact congrArg _ (funext fun u => ih (x + 1) u)

/-- A loop that ends the command has gone through the columns before the one that ends it. -/
theorem pixelLoop_ended_at {f : Filter} {n x : Nat} {s t : State} (h : pixelLoop f n x s = .ended t) :
    ∃ m < n, ∃ u, pixelLoop f m x s = .go u ∧ pixelStep f { u with px := BitVec.ofNat 32 (x + m) } = .ended t := by
  induction n generalizing x s with
  | zero => cases h
  | succ n ih =>
    rcases flowThen_eq_ended.1 h with hstep | ⟨u, hu, hloop⟩
    · exact ⟨0, Nat.succ_pos n, s, rfl, hstep⟩
    · obtain ⟨m, hm, v, hv, hend⟩ := ih hloop
      refine ⟨m + 1, Nat.succ_lt_succ hm, v, flowThen_eq_go.2 ⟨u, hu, hv⟩, ?_⟩
      rwa [Nat.add_comm m 1, ← Nat.add_assoc]

/-! ### The columns of a record -/

/-- The state in which the loop of a record of filter `f` starts: PX and FT are set and, on an indexed image, a nonzero filter
type has warned (42_scanline_reconstructor.md R160, R171). -/
def recordStart (f : Filter) (s : State) : State :=
  { s with
    px := 0
    ft := filterCode f
    warn := if ctIndexed s.ctype = false ∨ f = .none then s.warn else s.warn ||| 1
    trace := if ctIndexed s.ctype = false ∨ f = .none then s.trace
      else s.trace ++ [.warnIdxFilt s.pass s.py (filterCode f)] }

theorem recordWarning_eq_recordStart (f : Filter) (s : State) :
    recordWarning { s with px := 0, ft := filterCode f } = recordStart f s := by
  unfold recordWarning recordStart
  cases hindexed : ctIndexed s.ctype <;> cases f <;> simp [filterCode, warnIdxFilt, warnIdxFiltBit]

/-- `u` is the state in which a record of `s` takes its pixel step at column `x`: since the start only the latches and PX have
changed, and FB in the row (42_scanline_reconstructor.md R160, R172). -/
structure AtColumn (f : Filter) (s u : State) (x : Nat) : Prop where
  eq : u = { recordStart f s with latches := u.latches, px := BitVec.ofNat 32 x, fb := u.fb }
  fb : ∀ a, ¬ InRow s a → memRead u.fb a = memRead s.fb a

section AtColumn

variable {f : Filter} {s u : State} {x : Nat} (h : AtColumn f s u x)
include h

theorem AtColumn.px (hx : x < s.pw.toNat) : u.px.toNat = x := by
  have hpx : u.px = BitVec.ofNat 32 x := by rw [h.eq]
  rw [hpx, BitVec.toNat_ofNat, Nat.mod_eq_of_lt (hx.trans s.pw.isLt)]

theorem AtColumn.py : u.py = s.py := by rw [h.eq]; rfl

theorem AtColumn.ctype : u.ctype = s.ctype := by rw [h.eq]; rfl

theorem AtColumn.pal : u.pal = s.pal := by rw [h.eq]; rfl

theorem AtColumn.palLen : u.palLen = s.palLen := by rw [h.eq]; rfl

theorem AtColumn.lin (y z : Nat) : lin u y z = lin s y z := by rw [h.eq]; rfl

/-- The address that the pixel step stores to (42_scanline_reconstructor.md R163). -/
theorem AtColumn.lin_px (hx : x < s.pw.toNat) : Machine.lin u u.px.toNat u.py.toNat = Machine.lin s x s.py.toNat := by
  rw [h.lin, h.px hx, h.py]

/-- The index of the pixel (41_bit_depth_unpacker.md R144). -/
theorem AtColumn.extractSample_px (hx : x < s.pw.toNat) :
    extractSample u (u.cur + 1) u.depth.toNat u.px.toNat = extractSample s (s.cur + 1) s.depth.toNat x := by
  rw [h.px hx, h.eq]
  rfl

end AtColumn

section RecordLoop

variable {f : Filter} {s t u : State} {n x : Nat}

/-- What the loop of a record changes, as far as it has come. -/
theorem recordLoop_frame (h : pixelLoop f n 0 (recordStart f s) = .go t) (hn : n ≤ s.pw.toNat) :
    t = { recordStart f s with latches := t.latches, px := t.px, fb := t.fb } ∧
    ∀ a, ¬ InRow s a → memRead t.fb a = memRead s.fb a := by
  obtain ⟨heq, hfb, -, -⟩ := pixelLoop_go h (by have := s.pw.isLt; omega)
  exact ⟨heq, fun a ha => hfb a fun x _ hx hax => ha ⟨x, by omega, hax⟩⟩

theorem atColumn_of_recordLoop (h : pixelLoop f x 0 (recordStart f s) = .go u) (hx : x ≤ s.pw.toNat) :
    AtColumn f s { u with px := BitVec.ofNat 32 x } x := by
  obtain ⟨heq, hfb⟩ := recordLoop_frame h hx
  exact ⟨by rw [heq], hfb⟩

/-- A loop over a part of the row goes through each of its columns. -/
theorem recordLoop_go_at (h : pixelLoop f n 0 (recordStart f s) = .go t) (hn : n ≤ s.pw.toNat) (hx : x < n) :
    ∃ u v, AtColumn f s u x ∧ pixelStep f u = .go v ∧ pixelLoop f (n - (x + 1)) (x + 1) v = .go t := by
  rw [show n = x + (n - (x + 1) + 1) by omega, pixelLoop_add, Nat.zero_add] at h
  obtain ⟨u, hu, hrest⟩ := flowThen_eq_go.1 h
  obtain ⟨v, hv, ht⟩ := flowThen_eq_go.1 hrest
  exact ⟨_, v, atColumn_of_recordLoop hu (hx.le.trans hn), hv, ht⟩

/-- The column at which the loop ends the command, and those before it. -/
theorem recordLoop_ended_column (h : pixelLoop f s.pw.toNat 0 (recordStart f s) = .ended t) :
    ∃ x < s.pw.toNat, ∃ u, AtColumn f s u x ∧ pixelStep f u = .ended t ∧
      ∀ y < x, ∃ w v, AtColumn f s w y ∧ pixelStep f w = .go v := by
  obtain ⟨x, hx, u, hu, hend⟩ := pixelLoop_ended_at h
  rw [Nat.zero_add] at hend
  refine ⟨x, hx, _, atColumn_of_recordLoop hu hx.le, hend, fun y hy => ?_⟩
  obtain ⟨w, v, hw, hv, -⟩ := recordLoop_go_at hu hx.le hy
  exact ⟨w, v, hw, hv⟩

/-- The pixel step that a loop which goes on to `t` takes at column `x`: what it stores stands in `t`, and it sees the pixels to
its left as they stand in `t`. -/
theorem recordLoop_column (htable : tableOk s.params.passTable = true) (hpos : PositionOk s)
    (h : pixelLoop f s.pw.toNat 0 (recordStart f s) = .go t) (hx : x < s.pw.toNat) :
    ∃ u v, AtColumn f s u x ∧ pixelStep f u = .go v ∧
      memRead t.fb (lin s x s.py.toNat) = memRead v.fb (lin s x s.py.toNat) ∧
      ∀ y < x, memRead u.fb (lin s y s.py.toNat) = memRead t.fb (lin s y s.py.toNat) := by
  obtain ⟨u, v, hcol, hv, ht⟩ := recordLoop_go_at h le_rfl hx
  obtain ⟨-, r, hr⟩ := pixelStep_go hv
  obtain ⟨-, hlater, -, -⟩ := pixelLoop_go ht (by have := s.pw.isLt; omega)
  obtain ⟨-, hw, -, -, -⟩ := hpos
  have hne : ∀ y z, y < z → z < s.pw.toNat → lin s y s.py.toNat ≠ lin s z s.py.toNat := fun y z hyz hz hlin =>
    hyz.ne (lin_inj (hw ▸ hyz.trans hz) (hw ▸ hz) htable hlin).1
  have hvlin : ∀ z, lin v z v.py.toNat = lin s z s.py.toNat := fun z => by rw [← hcol.lin, ← hcol.py, hr]; rfl
  have hrest : ∀ y ≤ x, memRead t.fb (lin s y s.py.toNat) = memRead v.fb (lin s y s.py.toNat) := fun y hy =>
    hlater _ fun z hz hz' hlin => hne y z (by omega) (by omega) (hlin.trans (hvlin z))
  refine ⟨u, v, hcol, hv, hrest x le_rfl, fun y hy => ?_⟩
  rw [hrest y hy.le, hr]
  dsimp only
  rw [hcol.lin_px hx, memRead_memWrite_other _ _ (hne y x hy hx)]

end RecordLoop

/-! ### What a pixel step stores -/

/-- A pixel step of the non-indexed colour types stores what its latches come to (42_scanline_reconstructor.md R163, R169). -/
theorem pixelStep_filtered_go {f : Filter} {s t : State} (hindexed : ctIndexed s.ctype = false)
    (h : pixelStep f s = .go t) :
    ∃ l, loadLatches s s.px.toNat s.py.toNat = .ok l ∧
      memRead t.fb (lin s s.px.toNat s.py.toNat) = some (forceAlpha s.ctype (reconstruct f l)) := by
  simp only [pixelStep, hindexed, Bool.false_eq_true, if_false, filteredPixel] at h
  split at h
  · cases h
  · rename_i l hl
    obtain ⟨-, rfl⟩ := storePixel_go h
    exact ⟨l, hl, memRead_memWrite_same _ _ _⟩

/-- An indexed pixel step stores the colour of its index, whatever the filter (42_scanline_reconstructor.md R170). -/
theorem pixelStep_indexed_go {f : Filter} {s t : State} (hindexed : ctIndexed s.ctype = true) (h : pixelStep f s = .go t) :
    ∃ (i : Byte) (e : PalEntry), extractSample s (s.cur + 1) s.depth.toNat s.px.toNat = .ok i ∧
      i.toNat < s.palLen.toNat ∧ memRead s.pal i.toNat = some e ∧
      memRead t.fb (lin s s.px.toNat s.py.toNat) = some (palettePixel e) := by
  simp only [pixelStep, hindexed, if_true, indexedPixel] at h
  obtain ⟨u, hu, ht⟩ := flowThen_eq_go.1 h
  obtain ⟨i, e, hi, hlen, he, rfl⟩ := lookupPixel_go hu
  obtain ⟨-, rfl⟩ := storePixel_go ht
  exact ⟨i, e, hi, hlen, he, memRead_memWrite_same _ _ _⟩

theorem except_bind_eq_ok {ε α β : Type} {r : Except ε α} {k : α → Except ε β} {b : β} :
    (r >>= k) = .ok b ↔ ∃ a, r = .ok a ∧ k a = .ok b := by
  cases r <;> simp [bind, Except.bind]

/-- The latches of a pixel step: the raw pixel word and the three neighbours (42_scanline_reconstructor.md R162). -/
theorem loadLatches_ok {s : State} {x y : Nat} {l : Latches} (h : loadLatches s x y = .ok l) :
    composePixel s x = .ok l.v ∧ neighbour s (0 < x) (x - 1) y = .ok l.a ∧ neighbour s (0 < y) x (y - 1) = .ok l.b ∧
      neighbour s (0 < x && 0 < y) (x - 1) (y - 1) = .ok l.c := by
  unfold loadLatches at h
  obtain ⟨v, hv, h⟩ := except_bind_eq_ok.1 h
  obtain ⟨a, ha, h⟩ := except_bind_eq_ok.1 h
  obtain ⟨b, hb, h⟩ := except_bind_eq_ok.1 h
  obtain ⟨c, hc, h⟩ := except_bind_eq_ok.1 h
  cases h
  exact ⟨hv, ha, hb, hc⟩

/-- A neighbour is 0 where it is missing, and what FB holds there else (42_scanline_reconstructor.md R162). -/
theorem neighbour_ok {s : State} {present : Bool} {x y : Nat} {p : Pixel} (h : neighbour s present x y = .ok p) :
    (present = false ∧ p = 0) ∨ (present = true ∧ memRead s.fb (lin s x y) = some p) := by
  unfold neighbour at h
  cases present
  · cases h
    exact .inl ⟨rfl, rfl⟩
  · exact .inr ⟨rfl, readFb_eq_ok.1 h⟩

/-- A column of an indexed row that goes on has an index below PAL_LEN (41_bit_depth_unpacker.md R144). -/
theorem AtColumn.index_lt {f : Filter} {s u v : State} {x : Nat} {i : Byte} (h : AtColumn f s u x)
    (hindexed : ctIndexed s.ctype = true) (hx : x < s.pw.toNat) (hstep : pixelStep f u = .go v)
    (hi : extractSample s (s.cur + 1) s.depth.toNat x = .ok i) : i.toNat < s.palLen.toNat := by
  obtain ⟨j, e, hj, hlen, -, -⟩ := pixelStep_indexed_go (h.ctype ▸ hindexed) hstep
  rw [h.extractSample_px hx, hi] at hj
  cases hj
  rwa [h.palLen] at hlen

/-- A column that ends the command has an index that is not (60_exceptions.md R251). -/
theorem AtColumn.pixelStep_ended {f : Filter} {s u t : State} {x : Nat} (h : AtColumn f s u x) (hx : x < s.pw.toNat)
    (hstep : pixelStep f u = .ended t) :
    ∃ i : Byte, extractSample s (s.cur + 1) s.depth.toNat x = .ok i ∧ s.palLen.toNat ≤ i.toNat ∧
      t = takeFault .decode .palidx (i.setWidth 32) u := by
  obtain ⟨-, i, hi, hlen, ht⟩ := Machine.pixelStep_ended hstep
  rw [h.extractSample_px hx] at hi
  exact ⟨i, hi, h.palLen ▸ hlen, ht⟩

/-- The three neighbours as the statements name them (42_scanline_reconstructor.md R162). -/
theorem storedBefore_of_neighbour {s u : State} {fb : Cells 32} {present : Bool} {x1 y1 : Nat} {p : Pixel}
    (h : neighbour u present (x1 - 1) (y1 - 1) = .ok p) (hpresent : present = true ↔ 0 < x1 ∧ 0 < y1)
    (hfb : 0 < x1 → 0 < y1 → memRead u.fb (lin u (x1 - 1) (y1 - 1)) = memRead fb (lin s (x1 - 1) (y1 - 1))) :
    storedBefore s fb x1 y1 = some p := by
  unfold storedBefore
  rcases neighbour_ok h with ⟨rfl, rfl⟩ | ⟨rfl, hp⟩
  · rw [if_pos]
    simp only [Bool.false_eq_true, false_iff] at hpresent
    omega
  · obtain ⟨hx, hy⟩ := hpresent.1 rfl
    rw [if_neg (by omega), ← hfb hx hy, hp]

/-- The rows above the current one are not touched by its record (42_scanline_reconstructor.md R172). -/
theorem not_inRow_of_above {s : State} {x y : Nat} (htable : tableOk s.params.passTable = true) (hpos : PositionOk s)
    (hx : x < s.pw.toNat) (hy : y < s.py.toNat) : ¬ InRow s (lin s x y) := by
  rintro ⟨z, hz, hlin⟩
  obtain ⟨-, hw, -, -, -⟩ := hpos
  exact hy.ne (lin_inj (hw ▸ hx) (hw ▸ hz) htable hlin).2

/-- What the latches hold at a column of a record, told of FB before the record and of the row's pixels to the left. -/
theorem AtColumn.loadLatches {s u : State} {x : Nat} {l : Latches} {fb : Cells 32} (h : AtColumn f s u x)
    (htable : tableOk s.params.passTable = true) (hpos : PositionOk s) (hx : x < s.pw.toNat)
    (hleft : ∀ y < x, memRead u.fb (Machine.lin s y s.py.toNat) = memRead fb (Machine.lin s y s.py.toNat))
    (hl : loadLatches u u.px.toNat u.py.toNat = .ok l) :
    composePixel s x = .ok l.v ∧ storedBefore s fb x (s.py.toNat + 1) = some l.a ∧
      storedBefore s s.fb (x + 1) s.py.toNat = some l.b ∧ storedBefore s s.fb x s.py.toNat = some l.c := by
  rw [h.px hx, h.py] at hl
  obtain ⟨hv, ha, hb, hc⟩ := loadLatches_ok hl
  have habove : ∀ z < s.pw.toNat, 0 < s.py.toNat →
      memRead u.fb (Machine.lin u z (s.py.toNat - 1)) = memRead s.fb (Machine.lin s z (s.py.toNat - 1)) := fun z hz hy => by
    rw [h.lin, h.fb _ (not_inRow_of_above htable hpos hz (by omega))]
  refine ⟨?_, storedBefore_of_neighbour (y1 := s.py.toNat + 1) ha (by simp) fun hx0 _ => ?_,
    storedBefore_of_neighbour (x1 := x + 1) hb (by simp) fun _ hy => habove x hx hy,
    storedBefore_of_neighbour hc (by simp) fun _ hy => habove (x - 1) (by omega) hy⟩
  · rw [← hv, h.eq]
    rfl
  · rw [h.lin]
    exact hleft _ (by omega)

/-- A whole record ends with its loop: it completes, or the loop has ended the command. -/
theorem recordStep_whole {f : Filter} {s : State} (hrun : s.run = .run) (hs : RunningOk s)
    (hrow : s.cur + 1 + rowBytes s ≤ s.inLen) (hstream : StreamWritten s) (hpalette : PaletteWritten s) :
    ∃ t, (pixelLoop f s.pw.toNat 0 (recordStart f s) = .go t ∧
        exec (filterInstr f) s = .next (endRecord (rowBytes s) t)) ∨
      (pixelLoop f s.pw.toNat 0 (recordStart f s) = .ended t ∧
        exec (filterInstr f) s = .next t) := by
  obtain ⟨t, ht⟩ := recordStep_progress (f := f) hrun hs hstream hpalette
  rw [exec_filterInstr, ← recordWarning_eq_recordStart]
  obtain ⟨-, ⟨hshort, -⟩ | ⟨-, u, hu, rfl⟩ | ⟨-, hend⟩⟩ := recordStep_next ht
  · omega
  · exact ⟨u, .inl ⟨hu, ht⟩⟩
  · exact ⟨t, .inr ⟨hend, ht⟩⟩

/-! ### The statements about records -/

/-- Settles O26: the loop cannot end the command on a non-indexed image, and each column stores what its latches come to. -/
theorem filteredRecordReconstructsRow : Obligations.FilteredRecordReconstructsRow := by
  unfold Obligations.FilteredRecordReconstructsRow
  intro f s hrun hs hindexed hrow hstream
  have hpalette : PaletteWritten s := fun h => by simp [hindexed] at h
  obtain ⟨htable, hrunning⟩ := hs
  obtain ⟨-, -, hpos⟩ := hrunning hrun
  obtain ⟨t, ⟨hloop, hexec⟩ | ⟨hloop, -⟩⟩ :=
    recordStep_whole (f := f) hrun ⟨htable, hrunning⟩ hrow hstream hpalette
  · obtain ⟨heq, hfb⟩ := recordLoop_frame hloop le_rfl
    refine ⟨_, hexec, ?_, fun x hx => ?_, hfb⟩
    · rw [heq]
      simp only [recordStart, hindexed, true_or, if_true]
      rfl
    · obtain ⟨u, v, hcol, hstep, hstored, hleft⟩ := recordLoop_column htable hpos hloop hx
      obtain ⟨l, hl, hpixel⟩ := pixelStep_filtered_go (hcol.ctype ▸ hindexed) hstep
      obtain ⟨hv, ha, hb, hc⟩ := hcol.loadLatches htable hpos hx hleft hl
      rw [hcol.lin_px hx, ← hstored, hcol.ctype] at hpixel
      refine ⟨l.v, l.a, l.b, l.c, hv, ha, hb, hc, ?_⟩
      cases f <;> exact hpixel
  · obtain ⟨x, -, u, hcol, hend, -⟩ := recordLoop_ended_column hloop
    obtain ⟨hcontra, -⟩ := pixelStep_ended hend
    simp [hcol.ctype, hindexed] at hcontra

/-- Settles O27: an index below PAL_LEN does not end the loop, and each column stores the colour of its index. -/
theorem indexedRecordIgnoresFilter : Obligations.IndexedRecordIgnoresFilter := by
  unfold Obligations.IndexedRecordIgnoresFilter
  intro f s hrun hs hindexed hrow hstream hpalette hindices
  obtain ⟨htable, hrunning⟩ := hs
  obtain ⟨-, -, hpos⟩ := hrunning hrun
  obtain ⟨t, ⟨hloop, hexec⟩ | ⟨hloop, -⟩⟩ :=
    recordStep_whole (f := f) hrun ⟨htable, hrunning⟩ hrow hstream hpalette
  · obtain ⟨heq, hfb⟩ := recordLoop_frame hloop le_rfl
    refine ⟨_, hexec, ?_, fun x hx => ?_, hfb⟩
    · rw [heq]
      simp only [recordStart, hindexed, Bool.true_eq_false, false_or]
      rfl
    · obtain ⟨u, v, hcol, hstep, hstored, -⟩ := recordLoop_column htable hpos hloop hx
      obtain ⟨i, e, hi, -, he, hpixel⟩ := pixelStep_indexed_go (hcol.ctype ▸ hindexed) hstep
      rw [hcol.extractSample_px hx] at hi
      rw [hcol.lin_px hx, ← hstored, palettePixel_eq_append] at hpixel
      exact ⟨i, e, hi, hcol.pal ▸ he, hpixel⟩
  · obtain ⟨x, hx, u, hcol, hend, -⟩ := recordLoop_ended_column hloop
    obtain ⟨i, hi, hlen, -⟩ := hcol.pixelStep_ended hx hend
    exact absurd (hindices x hx i hi) hlen.not_gt

/-- Settles O28: the loop ends at a column whose index is out of range, which is not to the right of `x`, and not to its left
either. -/
theorem paletteFaultAtLeftmostPixel : Obligations.PaletteFaultAtLeftmostPixel := by
  unfold Obligations.PaletteFaultAtLeftmostPixel
  intro f s x i hrun hs hindexed hrow hstream hpalette hx hi hlen hbefore
  obtain ⟨htable, hrunning⟩ := hs
  obtain ⟨-, -, hpos⟩ := hrunning hrun
  obtain ⟨t, ⟨hloop, -⟩ | ⟨hloop, hexec⟩⟩ :=
    recordStep_whole (f := f) hrun ⟨htable, hrunning⟩ hrow hstream hpalette
  · obtain ⟨u, v, hcol, hstep, -⟩ := recordLoop_column htable hpos hloop hx
    exact absurd (hcol.index_lt hindexed hx hstep hi) hlen.not_gt
  · obtain ⟨y, hy, u, hcol, hend, hsteps⟩ := recordLoop_ended_column hloop
    obtain ⟨j, hj, hjlen, ht⟩ := hcol.pixelStep_ended hy hend
    obtain rfl : y = x := by
      rcases Nat.lt_trichotomy y x with hyx | hyx | hxy
      · exact absurd (hbefore y hyx j hj) hjlen.not_gt
      · exact hyx
      · obtain ⟨w, v, hw, hv⟩ := hsteps x hxy
        exact absurd (hw.index_lt hindexed hx hv hi) hlen.not_gt
    obtain rfl : i = j := Except.ok.inj (hi.symm.trans hj)
    subst ht
    refine ⟨_, hexec, ?_, ?_, ?_, fun a ha => ?_⟩
    · rw [takeFault_errInfo, BitVec.toNat_setWidth_of_le (by decide)]
    · rw [takeFault_px, hcol.px hx]
    · rw [hcol.eq]
      simp only [recordStart, hindexed, Bool.true_eq_false, false_or]
      rfl
    · have harea : area u = area s := by rw [hcol.eq]; rfl
      rw [takeFault_decode_fb_above _ _ _ (harea ▸ ha)]
      exact hcol.fb a fun hin => (inRow_lt_area htable hpos hin).not_ge ha

/-- Settles O29: the row check comes before the warning and every pixel step, and its fault changes FB inside the image only. -/
theorem shortRowFaultsTruncated : Obligations.ShortRowFaultsTruncated := by
  unfold Obligations.ShortRowFaultsTruncated
  intro f s hrun hconfig hpos hshort
  refine ⟨takeFault .decode .trunc 0 { s with px := 0, ft := filterCode f }, ?_, rfl,
    fun a ha => takeFault_decode_fb_above _ _ _ ha⟩
  rw [exec_filterInstr]
  exact (if_pos (recordReady_of_position hconfig hpos)).trans (if_pos hshort)

/-! ### The fetch and the step -/

theorem fetch_of_inLen_le {s : State} (h : s.inLen ≤ s.cur) :
    fetch s = .faulted (takeFault .decode .trunc 0 (freeFilterType { s with px := 0 })) := if_pos h

theorem fetch_of_noValue {s : State} (hcur : s.cur < s.inLen) (h : memRead s.input s.cur = none) :
    fetch s = .stuck (.noValue .input s.cur) := by
  simp [fetch, Nat.not_le.2 hcur, readIn, h]

theorem fetch_of_decode {s : State} {b : Byte} {i : Instr} (hcur : s.cur < s.inLen) (hb : memRead s.input s.cur = some b)
    (hi : decode (.record b) = .ok i) : fetch s = .issue i { s with px := 0, ft := b } := by
  simp [fetch, Nat.not_le.2 hcur, readIn_eq_ok.2 hb, hi]

/-- A step of a running decode is a record (10_state.md R36). -/
theorem step_of_run {s : State} (hreset : s.resetIn = none) (hrun : s.run = .run) : step s = stepRecord s :=
  (step_of_resetIn_none hreset).trans (stepOn_of_run hrun)

/-- A command code at `CTRL` is the whole of a step while no command runs (10_state.md R34). -/
theorem step_of_command {s : State} {v : Nat} {rest : List HostOp} {i : Instr} (hreset : s.resetIn = none)
    (hrun : s.run ≠ .run) (hhost : s.host = .writeReg 0 v :: rest) (hi : decode (.ctrl (BitVec.ofNat 8 v)) = .ok i) :
    step s = exec i { s with host := rest } := by
  rw [step_of_resetIn_none hreset, stepOn_of_not_run hrun]
  simp [stepHost, hhost, hostMove, writeCtrl, hi]

/-- Settles O4: a fetch whose byte decodes hands on that instruction, a write to `CTRL` its command, and a reset input that
is not due is set back by one before either. -/
theorem stepRunsDecodedInstruction : Obligations.StepRunsDecodedInstruction := by
  unfold Obligations.StepRunsDecodedInstruction
  refine ⟨fun s b i hreset hrun hcur hb hi => ?_, fun s v rest i => step_of_command, fun s n => rfl⟩
  rw [step_of_run hreset hrun, stepRecord, fetch_of_decode hcur hb hi]

/-- Settles O30: with no byte left the fetch is the fault, and a byte without a value stops it. -/
theorem fetchFaultsTruncated : Obligations.FetchFaultsTruncated := by
  unfold Obligations.FetchFaultsTruncated
  intro s hreset hrun
  rw [step_of_run hreset hrun]
  refine ⟨fun hcur => ⟨takeFault .decode .trunc 0 (freeFilterType { s with px := 0 }), ?_, rfl,
    fun a ha => takeFault_decode_fb_above _ _ _ ha⟩, fun hcur hmissing => ?_⟩
  · rw [stepRecord, fetch_of_inLen_le hcur]
  · rw [stepRecord, fetch_of_noValue hcur hmissing]

/-! ### Executions outside the domain of their rule -/

theorem ctype_mem_of_legalCtype {ctype : Byte} (h : legalCtype ctype = true) : ctype.toNat ∈ [0, 2, 3, 4, 6] := by
  simp only [legalCtype, Bool.or_eq_true, beq_iff_eq] at h
  rcases h with (((rfl | rfl) | rfl) | rfl) | rfl <;> decide

/-- The one legal colour type without a composition is the indexed one (41_bit_depth_unpacker.md R142). -/
theorem ctype_mem_of_composed {ctype : Byte} (hindexed : ctIndexed ctype = false) (h : legalCtype ctype = true) :
    ctype.toNat ∈ [0, 2, 4, 6] := by
  simp only [legalCtype, Bool.or_eq_true, beq_iff_eq] at h
  rcases h with (((rfl | rfl) | rfl) | rfl) | rfl
  case inl.inl.inr => cases hindexed
  all_goals decide

theorem depth_mem_of_depthOperandOk {depth : Nat} (h : depthOperandOk depth = true) : depth ∈ [1, 2, 4, 8] := by
  simpa [depthOperandOk, or_assoc] using h

/-- What the record step asks of its state (42_scanline_reconstructor.md R160). -/
theorem of_recordReady {s : State} (h : recordReady s = true) : s.depth.toNat ∈ [1, 2, 4, 8] ∧
    s.ctype.toNat ∈ [0, 2, 3, 4, 6] ∧ s.pw ≠ 0 ∧ s.py.toNat < s.ph.toNat := by
  simp only [recordReady, Bool.and_eq_true, decide_eq_true_eq] at h
  obtain ⟨⟨⟨hdepth, hctype⟩, hpw⟩, hpy⟩ := h
  exact ⟨depth_mem_of_legalDepth hdepth, ctype_mem_of_legalCtype hctype, fun h0 => by simp [h0] at hpw, hpy⟩

/-- Settles O39: each execution looks at its domain first, so a state or an operand outside it is all that it sees. -/
theorem outOfDomainRefused : Obligations.OutOfDomainRefused := by
  unfold Obligations.OutOfDomainRefused
  refine ⟨fun f s hout => ?_, fun s hrun => ⟨?_, ?_, ?_⟩, fun s base depth i hdepth => ?_, fun s x hdepth => ⟨?_, ?_⟩,
    fun s x hdepth hctype => ?_, fun s k x y hk => ⟨?_, ?_⟩⟩
  · rw [exec_filterInstr]
    refine if_neg fun hready => ?_
    obtain ⟨hdepth, hctype, hpw, hpy⟩ := of_recordReady hready
    rcases hout with h | h | h | h
    · exact h hdepth
    · exact h hctype
    · exact hpw h
    · exact hpy.not_ge h
  · exact if_neg (by simp [hrun])
  · exact if_neg (by simp [hrun])
  · exact if_pos hrun
  · exact if_neg fun h => hdepth (depth_mem_of_depthOperandOk h)
  · exact if_pos fun h => hdepth (depth_mem_of_depthOperandOk h)
  · exact if_pos fun h => hdepth (depth_mem_of_depthOperandOk h)
  · refine (if_neg (not_not.2 (depthOperandOk_of_mem hdepth))).trans (if_pos ?_)
    by_contra h
    simp only [Bool.or_eq_true, Bool.not_eq_true', not_or, Bool.not_eq_true, Bool.not_eq_false] at h
    exact hctype (ctype_mem_of_composed h.1 h.2)
  · exact if_neg (by simpa using hk)
  · exact if_neg (by simpa using hk)

end Sys2Proof.Machine
end

section
/-! PROOFS. The image of a whole decode (42_scanline_reconstructor.md R169, 43_interlace_sequencer.md R209): without ALPHA every
record leaves its row opaque, and the rows of all passes are the image. -/

namespace Sys2Proof.Machine

/-! ### The passes cover the image -/

/-- A stride of the cell divides its side (43_interlace_sequencer.md R210). -/
theorem strideOk_dvd {d : Nat} (h : strideOk d = true) : d ∣ 8 := by
  simp only [strideOk, Bool.or_eq_true, beq_iff_eq] at h
  rcases h with ((rfl | rfl) | rfl) | rfl <;> decide

/-- A coordinate that a pass visits is one of its own (43_interlace_sequencer.md R202, R209). -/
theorem exists_coordinate {n o d c : Nat} (hd : 0 < d) (hc : c < n) (h : c % d = o) :
    ∃ x < axisCount n o d, o + x * d = c := by
  have hx : o + c / d * d = c := by rw [← h, Nat.mul_comm, Nat.mod_add_div]
  exact ⟨c / d, (lt_axisCount hd).2 (hx.symm ▸ hc), hx⟩

/-- Some pass has the residues of any coordinate: those of its position in the cell (43_interlace_sequencer.md R209, R210). -/
theorem exists_pass_of_residues {t : PassTable} (h : tableOk t = true) (px py : Nat) :
    ∃ k ≤ 7, k ∈ [1, 2, 3, 4, 5, 6, 7] ∧ px % (geometryOf t k).sx = (geometryOf t k).x0 ∧
      py % (geometryOf t k).sy = (geometryOf t k).y0 := by
  have hcell := h
  simp only [tableOk, cellPartition, Bool.and_eq_true, List.all_eq_true, List.mem_range, beq_iff_eq] at hcell
  have hone := hcell.2 (px % 8) (Nat.mod_lt _ (by decide)) (py % 8) (Nat.mod_lt _ (by decide))
  obtain ⟨k, hk⟩ := List.exists_mem_of_length_pos (Nat.lt_of_lt_of_eq Nat.zero_lt_one hone.symm)
  obtain ⟨hmem, hvisits⟩ := List.mem_filter.1 hk
  have hk7 : k ≤ 7 := (by decide : ∀ j ∈ [1, 2, 3, 4, 5, 6, 7], j ≤ 7) k hmem
  have hg := tableOk_geometry h hk7
  simp only [geometryOk, Bool.and_eq_true] at hg
  obtain ⟨⟨⟨hsx, hsy⟩, -⟩, -⟩ := hg
  simp only [visits, Bool.and_eq_true, decide_eq_true_eq] at hvisits
  rw [Nat.mod_mod_of_dvd _ (strideOk_dvd hsx), Nat.mod_mod_of_dvd _ (strideOk_dvd hsy)] at hvisits
  exact ⟨k, hk7, hmem, hvisits⟩

/-- A pass that has the residues of a full-image coordinate has a pixel there. -/
theorem exists_pass_pixel {t : PassTable} {w h k px py : Nat} (hg : geometryOk (geometryOf t k) = true) (hx : px < w)
    (hy : py < h) (hresx : px % (geometryOf t k).sx = (geometryOf t k).x0)
    (hresy : py % (geometryOf t k).sy = (geometryOf t k).y0) :
    ∃ x < passWidth t k w, ∃ y < passHeight t k h, linAddr t w k x y = py * w + px := by
  obtain ⟨hsx, hsy, -, -⟩ := geometryOk_pos hg
  obtain ⟨x, hxw, hpx⟩ := exists_coordinate hsx hx hresx
  obtain ⟨y, hyh, hpy⟩ := exists_coordinate hsy hy hresy
  exact ⟨x, hxw, y, hyh, by rw [linAddr, xform, hpx, hpy]⟩

/-- Every address of the image is a pixel of one of the passes of the decode (43_interlace_sequencer.md R200, R209 (a)). -/
theorem exists_pass_of_lt_area {t : PassTable} (htable : tableOk t = true) (ilace : Byte) {w h a : Nat} (ha : a < w * h) :
    ∃ k ∈ allPasses ilace, ∃ x < passWidth t k w, ∃ y < passHeight t k h, linAddr t w k x y = a := by
  have hx : a % w < w := Nat.mod_lt a (Nat.pos_of_mul_pos_right (Nat.zero_lt_of_lt ha))
  have hy : a / w < h := Nat.div_lt_of_lt_mul ha
  rw [← Nat.div_add_mod' a w]
  unfold allPasses
  split
  · exact ⟨0, List.mem_singleton_self 0, exists_pass_pixel rfl hx hy (Nat.mod_one _) (Nat.mod_one _)⟩
  · obtain ⟨k, hk7, hk, hresx, hresy⟩ := exists_pass_of_residues htable (a % w) (a / w)
    exact ⟨k, hk, exists_pass_pixel (tableOk_geometry htable hk7) hx hy hresx hresy⟩

/-! ### Opaque pixels, rows and passes -/

/-- FB holds an opaque pixel at `a` (42_scanline_reconstructor.md R169). -/
def OpaqueAt (s : State) (a : Nat) : Prop := ∃ p, memRead s.fb a = some p ∧ lane p 3 = 0xFF

/-- Row `y` of pass `k` is opaque. -/
def RowOpaque (s : State) (k y : Nat) : Prop :=
  ∀ x < passWidth s.params.passTable k s.width.toNat, OpaqueAt s (linAddr s.params.passTable s.width.toNat k x y)

/-- Every row of pass `k` is opaque. -/
def PassOpaque (s : State) (k : Nat) : Prop := ∀ y < passHeight s.params.passTable k s.height.toNat, RowOpaque s k y

/-- All the records before the current one have left their rows opaque, and so have all the records of a decode that is
complete (43_interlace_sequencer.md R207). -/
def OpaqueSoFar (s : State) : Prop :=
  (s.run = .run → (∀ k ∈ allPasses s.ilace, k < s.pass.toNat → PassOpaque s k) ∧
    ∀ y < s.py.toNat, RowOpaque s s.pass.toNat y) ∧
  (s.run = .done → ∀ k ∈ allPasses s.ilace, PassOpaque s k)

theorem opaqueSoFar_of_fault {s : State} (h : s.run = .fault) : OpaqueSoFar s :=
  ⟨fun hrun => absurd (h.symm.trans hrun) (by decide), fun hdone => absurd (h.symm.trans hdone) (by decide)⟩

/-- Under a well-formed table PW and PH hold what S.DIMS computes (43_interlace_sequencer.md R202). -/
theorem toNat_setDims {s : State} {k : Nat} (htable : tableOk s.params.passTable = true) (hk : k ≤ 7) :
    (setDims k s).pw.toNat = passWidth s.params.passTable k s.width.toNat ∧
      (setDims k s).ph.toNat = passHeight s.params.passTable k s.height.toNat := by
  constructor
  · rw [setDims_pw, BitVec.toNat_ofNat, Nat.mod_eq_of_lt ((passWidth_le htable hk _).trans_lt s.width.isLt)]
  · rw [setDims_ph, BitVec.toNat_ofNat, Nat.mod_eq_of_lt ((passHeight_le htable hk _).trans_lt s.height.isLt)]

/-- A pass without a pixel has no row that is not opaque (43_interlace_sequencer.md R205). -/
theorem passOpaque_of_empty {s : State} {k : Nat} (htable : tableOk s.params.passTable = true) (hk : k ≤ 7)
    (h : (setDims k s).pw = 0 ∨ (setDims k s).ph = 0) : PassOpaque s k := by
  intro y hy x hx
  obtain ⟨hw, hh⟩ := toNat_setDims htable hk
  rcases h with hpw | hph
  · rw [← hw, hpw] at hx
    exact absurd hx (Nat.not_lt_zero x)
  · rw [← hh, hph] at hy
    exact absurd hy (Nat.not_lt_zero y)

theorem pairwise_allPasses (ilace : Byte) : (allPasses ilace).Pairwise (· < ·) := by
  unfold allPasses
  split <;> decide

/-- Entering the first of the passes `ks` that is not empty passes over no pixel that is not opaque, where every pass that is
not among them is opaque (43_interlace_sequencer.md R205, R207). -/
theorem opaqueSoFar_enterPass {s : State} {ks : List Nat} (htable : tableOk s.params.passTable = true)
    (hrun : s.run = .run) (hks : ∀ k ∈ ks, k ≤ 7) (hrising : ks.Pairwise (· < ·))
    (h : ∀ k ∈ allPasses s.ilace, k ∈ ks ∨ PassOpaque s k) :
    OpaqueSoFar (enterPass s ks) := by
  induction ks generalizing s with
  | nil =>
    refine ⟨fun hr => ?_, fun _ k hk => (h k hk).resolve_left List.not_mem_nil⟩
    rw [enterPass, finish_run] at hr
    cases hr
  | cons k ks ih =>
    have hk : k ≤ 7 := hks k List.mem_cons_self
    obtain ⟨hfirst, hrest⟩ := List.pairwise_cons.1 hrising
    unfold enterPass
    dsimp only
    split
    case isTrue hempty =>
      refine ih (s := setDims k { s with pass := BitVec.ofNat 3 k }) htable hrun
        (fun j hj => hks j (List.mem_cons_of_mem _ hj)) hrest fun j hj => ?_
      rcases h j hj with hmem | hopaque
      · rcases List.mem_cons.1 hmem with rfl | hmem
        · exact .inr (passOpaque_of_empty htable hk hempty)
        · exact .inl hmem
      · exact .inr hopaque
    case isFalse =>
      refine ⟨fun _ => ⟨fun j hj hlt => ?_, fun y hy => absurd hy (Nat.not_lt_zero y)⟩, fun hdone => ?_⟩
      · have hpass : (BitVec.ofNat 3 k).toNat = k := by rw [BitVec.toNat_ofNat, Nat.mod_eq_of_lt (by omega)]
        have hjk : j < k := hpass ▸ hlt
        refine (h j hj).resolve_left fun hmem => ?_
        rcases List.mem_cons.1 hmem with rfl | hmem
        · exact hjk.false
        · exact (hjk.trans (hfirst j hmem)).false
      · exact absurd (hrun.symm.trans hdone) (by decide)

/-- The move to the next record, after one that has left its row opaque too (43_interlace_sequencer.md R207). -/
theorem opaqueSoFar_nextRecord {s : State} (htable : tableOk s.params.passTable = true) (hrun : s.run = .run)
    (hpos : PositionOk s) (h : OpaqueSoFar s) (hrow : RowOpaque s s.pass.toNat s.py.toNat) : OpaqueSoFar (nextRecord s) := by
  obtain ⟨hpasses, hrows⟩ := h.1 hrun
  obtain ⟨-, -, hph, -, hpy⟩ := hpos
  have hrows' : ∀ y ≤ s.py.toNat, RowOpaque s s.pass.toNat y := fun y hy =>
    hy.lt_or_eq.elim (hrows y) fun heq => heq ▸ hrow
  unfold nextRecord
  split
  case isTrue hnext =>
    have hpy' : (s.py + 1).toNat = s.py.toNat + 1 := BitVec.toNat_add_of_lt (y := 1) (hnext.trans s.ph.isLt)
    exact ⟨fun _ => ⟨hpasses, fun y hy => hrows' y (Nat.le_of_lt_succ (hy.trans_eq hpy'))⟩,
      fun hdone => absurd (hrun.symm.trans hdone) (by decide)⟩
  case isFalse hlast =>
    refine opaqueSoFar_enterPass htable hrun (fun k hk => mem_allPasses_le (mem_allPasses_of_mem_passesAfter hk))
      ((pairwise_allPasses s.ilace).filter _) fun k hk => ?_
    rcases Nat.lt_trichotomy k s.pass.toNat with hlt | rfl | hgt
    · exact .inr (hpasses k hk hlt)
    · exact .inr fun y hy => hrows' y (by omega)
    · exact .inl (List.mem_filter.2 ⟨hk, by simpa using hgt⟩)

/-! ### A record leaves its row opaque -/

theorem lane_forceAlpha {ctype : Byte} (h : ctAlpha ctype = false) (p : Pixel) : lane (forceAlpha ctype p) 3 = 0xFF := by
  have hor : lane ((p &&& 0xFFFFFF00) ||| 0x000000FF) 3 = lane (p &&& 0xFFFFFF00) 3 ||| BitVec.allOnes 8 :=
    BitVec.extractLsb'_or
  rw [forceAlpha, h, if_neg (by decide), hor, BitVec.or_allOnes]
  rfl

theorem lane_palettePixel (e : PalEntry) : lane (palettePixel e) 3 = 0xFF := lane_pack_alpha _ _ _ _

/-- What a pixel step stores without ALPHA is opaque, whatever the colour type (42_scanline_reconstructor.md R169,
41_bit_depth_unpacker.md R144). -/
theorem pixelStep_opaque {f : Filter} {s t : State} (halpha : ctAlpha s.ctype = false) (h : pixelStep f s = .go t) :
    OpaqueAt t (lin s s.px.toNat s.py.toNat) := by
  cases hindexed : ctIndexed s.ctype
  · obtain ⟨l, -, hp⟩ := pixelStep_filtered_go hindexed h
    exact ⟨_, hp, lane_forceAlpha halpha _⟩
  · obtain ⟨i, e, -, -, -, hp⟩ := pixelStep_indexed_go hindexed h
    exact ⟨_, hp, lane_palettePixel e⟩

/-- A record that does not fault leaves its row opaque, and takes opacity from no pixel. -/
theorem recordStep_opaque {f : Filter} {s t : State} (htable : tableOk s.params.passTable = true) (hpos : PositionOk s)
    (halpha : ctAlpha s.ctype = false) (h : recordStep f s = .next t) (hrun : t.run ≠ .fault) {a : Nat}
    (ha : OpaqueAt s a ∨ InRow s a) : OpaqueAt t a := by
  obtain ⟨-, hrecord⟩ := recordStep_next h
  rw [recordWarning_eq_recordStart] at hrecord
  rcases hrecord with ⟨-, rfl⟩ | ⟨-, u, hu, rfl⟩ | ⟨-, hend⟩
  · exact absurd (takeFault_run _ _ _ _) hrun
  · by_cases hin : InRow s a
    · obtain ⟨x, hx, rfl⟩ := hin
      obtain ⟨w, v, hcol, hstep, hstored, -⟩ := recordLoop_column htable hpos hu hx
      obtain ⟨p, hp, hlane⟩ := pixelStep_opaque (hcol.ctype ▸ halpha) hstep
      rw [hcol.lin_px hx] at hp
      exact ⟨p, hstored.trans hp, hlane⟩
    · obtain ⟨p, hp, hlane⟩ := ha.resolve_right hin
      obtain ⟨-, hfb⟩ := recordLoop_frame hu le_rfl
      exact ⟨p, (hfb a hin).trans hp, hlane⟩
  · obtain ⟨x, hx, u, hcol, hstep, -⟩ := recordLoop_ended_column hend
    obtain ⟨i, -, -, rfl⟩ := hcol.pixelStep_ended hx hstep
    exact absurd (takeFault_run _ _ _ _) hrun

/-- The rows so far after a record are those before it and its own. -/
theorem opaqueSoFar_endRecord {s u : State} {n : Nat} (hrun : s.run = .run) (hpos : PositionOk s) (hframe : RecordFrame s u)
    (h : OpaqueSoFar s) (hopaque : ∀ a, OpaqueAt s a ∨ InRow s a → OpaqueAt (endRecord n u) a) :
    OpaqueSoFar (endRecord n u) ∧ RowOpaque (endRecord n u) u.pass.toNat u.py.toNat := by
  obtain ⟨hpasses, hrows⟩ := h.1 hrun
  obtain ⟨-, hw, -, -, -⟩ := hpos
  rw [hframe.eq] at hopaque ⊢
  refine ⟨⟨fun _ => ⟨fun k hk hlt y hy x hx => ?_, fun y hy x hx => ?_⟩, fun hdone => ?_⟩, fun x hx => ?_⟩
  · exact hopaque _ (.inl (hpasses k hk hlt y hy x hx))
  · exact hopaque _ (.inl (hrows y hy x hx))
  · exact absurd (hrun.symm.trans hdone) (by decide)
  · exact hopaque _ (.inr ⟨x, hx.trans_eq hw.symm, rfl⟩)

theorem fetch_faulted_run {s t : State} (h : fetch s = .faulted t) : t.run = .fault := by
  rcases fetch_faulted h with ⟨-, rfl⟩ | ⟨b, -, rfl⟩ <;> exact takeFault_run _ _ _ _

/-- A record of a decode without ALPHA takes the decode one row further. -/
theorem stepRecord_opaqueSoFar {s t : State} (h : stepRecord s = .next t) (hrun : s.run = .run) (hs : RunningOk s)
    (halpha : ctAlpha s.ctype = false) (hsofar : OpaqueSoFar s) : OpaqueSoFar t := by
  obtain ⟨htable, hrunning⟩ := hs
  obtain ⟨-, -, hpos⟩ := hrunning hrun
  rcases stepRecord_next h with hf | ⟨f, u, -, -, hr, rfl⟩
  · exact opaqueSoFar_of_fault (fetch_faulted_run hf)
  · obtain ⟨w, hframe, ⟨e, info, rfl⟩ | ⟨rfl, -⟩⟩ := recordStep_frame hr
    · exact opaqueSoFar_of_fault (by simp)
    · have hwrun : w.run = .run := by rw [hframe.eq]; exact hrun
      obtain ⟨hsofar', hrow⟩ := opaqueSoFar_endRecord (s := { s with px := 0, ft := filterCode f })
        hrun hpos hframe hsofar fun a => recordStep_opaque htable hpos halpha hr (by simp [hwrun])
      rw [endRecord_run, if_pos hwrun]
      refine opaqueSoFar_nextRecord ?_ hwrun ?_ hsofar' hrow
      · rw [endRecord_params, hframe.eq]; exact htable
      · rw [hframe.eq]; exact hpos

/-! ### The run of a decode -/

/-- What the statement says of the end of a decode, as an invariant of its run: nothing but its records takes a step, its
image is the one of the call `c`, and its rows so far are opaque. -/
structure OpaqueDecode (c s : State) : Prop where
  reset : s.resetIn = none
  host : s.host = []
  alpha : ctAlpha s.ctype = false
  area : area s = area c
  running : RunningOk s
  sofar : OpaqueSoFar s

theorem OpaqueDecode.step {c s t : State} (h : OpaqueDecode c s) (hstep : step s = .next t) : OpaqueDecode c t := by
  by_cases hrun : s.run = .run
  · have hrunning := stepKeepsRunningDecode s t h.running hstep
    rw [step_of_run h.reset hrun] at hstep
    have hsofar := stepRecord_opaqueSoFar hstep hrun h.running h.alpha h.sofar
    have heq := stepRecord_eq hstep hrun
    refine ⟨?_, ?_, ?_, ?_, hrunning, hsofar⟩ <;> rw [heq]
    · exact h.reset
    · exact h.host
    · exact h.alpha
    · exact h.area
  · rw [idleMachineStaysPut s h.reset hrun h.host] at hstep
    cases hstep
    exact h

theorem OpaqueDecode.stepN {c s t : State} {n : Nat} (h : OpaqueDecode c s) (hrun : stepN n s = .next t) :
    OpaqueDecode c t := by
  induction n generalizing s with
  | zero =>
    cases hrun
    exact h
  | succ n ih =>
    rw [Machine.stepN] at hrun
    cases hstep : Machine.step s with
    | next u => rw [hstep] at hrun; exact ih (h.step hstep) hrun
    | fault e => rw [hstep] at hrun; cases hrun
    | refused e => rw [hstep] at hrun; cases hrun

/-- C.DECODE starts such a run: its first record has none before it (44_commands.md R222). -/
theorem opaqueDecode_of_execCDecode {s v : State} (hreset : s.resetIn = none) (hhost : s.host = [])
    (htable : tableOk s.params.passTable = true) (halpha : ctAlpha s.ctype = false) (h : execCDecode s = .next v) :
    OpaqueDecode s v := by
  have hrunning := execCDecode_runningOk h htable
  obtain ⟨-, ⟨e, info, -, rfl⟩ | ⟨-, rfl⟩⟩ := execCDecode_next h
  · exact ⟨by simpa, by simpa, by simpa, rfl, hrunning, opaqueSoFar_of_fault (takeFault_run _ _ _ _)⟩
  · have hsofar : OpaqueSoFar (enterPass (zeroFill (beginDecode s)) (allPasses s.ilace)) :=
      opaqueSoFar_enterPass htable rfl (fun _ => mem_allPasses_le) (pairwise_allPasses _) fun _ hk => .inl hk
    have heq := (enterPass_frame (zeroFill (beginDecode s)) (allPasses s.ilace)).eq
    refine ⟨?_, ?_, ?_, ?_, hrunning, hsofar⟩ <;> rw [heq]
    · exact hreset
    · exact hhost
    · exact halpha
    · rfl

/-- Settles O55: the run keeps its rows so far opaque, at its end these are the rows of all passes, and the passes cover the
image. -/
theorem decodeWithoutAlphaIsOpaque : Obligations.DecodeWithoutAlphaIsOpaque := by
  unfold Obligations.DecodeWithoutAlphaIsOpaque
  intro s v t n _ hreset hhost htable halpha hexec hrun hdone a ha
  have hdecode := (opaqueDecode_of_execCDecode hreset hhost htable halpha hexec).stepN hrun
  rw [← hdecode.area] at ha
  obtain ⟨htable', -⟩ := hdecode.running
  obtain ⟨k, hk, x, hx, y, hy, rfl⟩ := exists_pass_of_lt_area htable' t.ilace ha
  exact hdecode.sofar.2 hdone k hk y hy x hx

end Sys2Proof.Machine
end

section
/-! PROOFS. The interlace sequencer (43_interlace_sequencer.md): pass dimensions and coordinates, the partition of the image by
the passes, where the sequencer goes after a record, and the end of a decode. -/

namespace Sys2Proof.Machine

/-! ### S.DIMS and S.XFORM -/

theorem exec_sDims {k : Nat} (hk : k ≤ 7) (s : State) : exec (.sDims k) s = .next (setDims k s) :=
  if_pos (decide_eq_true hk)

theorem exec_sXform {k : Nat} (hk : k ≤ 7) (x y : Nat) (s : State) : exec (.sXform k x y) s =
    .next { s with result := .point (xform s.params.passTable k x y).1 (xform s.params.passTable k x y).2 } :=
  if_pos (decide_eq_true hk)

/-- The single pass is the identity (43_interlace_sequencer.md R200). -/
theorem xform_zero (t : PassTable) (x y : Nat) : xform t 0 x y = (x, y) := by
  simp [xform, geometryOf]

/-- Settles O21: what S.DIMS writes fits its registers, since no pass is wider or higher than the image. -/
theorem dimsAreCeilings : Obligations.DimsAreCeilings := by
  unfold Obligations.DimsAreCeilings
  intro s k hk htable
  obtain ⟨hpw, hph⟩ := toNat_setDims htable hk
  exact ⟨setDims k s, exec_sDims hk s, rfl, hpw, hph⟩

/-- Settles O22: the result is the transform, and that of the single pass is the identity. -/
theorem xformIsOffsetPlusStride : Obligations.XformIsOffsetPlusStride := by
  unfold Obligations.XformIsOffsetPlusStride
  refine fun s k x y hk => ⟨exec_sXform hk x y s, ?_⟩
  rintro rfl
  rw [exec_sXform hk, xform_zero]

/-! ### The passes partition the image -/

/-- The cell repeats: with strides that divide 8, who visits a pixel depends on its position in the cell only
(43_interlace_sequencer.md R209, R210). -/
theorem visits_mod_eight {t : PassTable} (h : tableOk t = true) {k : Nat} (hk : k ≤ 7) (px py : Nat) :
    visits t (px % 8) (py % 8) k = visits t px py k := by
  have hg := tableOk_geometry h hk
  simp only [geometryOk, Bool.and_eq_true] at hg
  obtain ⟨⟨⟨hsx, hsy⟩, -⟩, -⟩ := hg
  rw [visits, Nat.mod_mod_of_dvd _ (strideOk_dvd hsx), Nat.mod_mod_of_dvd _ (strideOk_dvd hsy), visits]

/-- Every pixel of the plane is visited by exactly one of the seven passes (43_interlace_sequencer.md R209 (a)). -/
theorem existsUnique_visits {t : PassTable} (h : tableOk t = true) (px py : Nat) :
    ∃! k, (1 ≤ k ∧ k ≤ 7) ∧ visits t px py k = true := by
  have hcell := h
  simp only [tableOk, cellPartition, Bool.and_eq_true, List.all_eq_true, List.mem_range, beq_iff_eq] at hcell
  obtain ⟨k, hk⟩ := List.length_eq_one_iff.1
    (hcell.2 (px % 8) (Nat.mod_lt _ (by decide)) (py % 8) (Nat.mod_lt _ (by decide)))
  have howner : ∀ j, (1 ≤ j ∧ j ≤ 7) ∧ visits t px py j = true ↔ j = k := by
    intro j
    have hmem : j ∈ [1, 2, 3, 4, 5, 6, 7] ↔ 1 ≤ j ∧ j ≤ 7 := by
      simp only [List.mem_cons, List.not_mem_nil, or_false]
      omega
    have hfilter : j ∈ [1, 2, 3, 4, 5, 6, 7].filter (visits t (px % 8) (py % 8)) ↔ j = k := by
      rw [hk, List.mem_singleton]
    rw [← hfilter, List.mem_filter, hmem]
    exact and_congr_right fun hj => by rw [visits_mod_eight h hj.2]
  exact ⟨k, (howner k).2 rfl, fun j => (howner j).1⟩

/-- On one axis a pass of offset `o` and stride `d` has the coordinates of residue `o` (43_interlace_sequencer.md R202, R203). -/
theorem mod_eq_iff_exists_coordinate {n o d c : Nat} (ho : o < d) (hc : c < n) :
    c % d = o ↔ ∃ x < axisCount n o d, o + x * d = c := by
  refine ⟨exists_coordinate (Nat.zero_lt_of_lt ho) hc, ?_⟩
  rintro ⟨x, -, rfl⟩
  rw [Nat.add_mul_mod_self_right, Nat.mod_eq_of_lt ho]

/-- The pass-local pixels of a pass are the pixels of the image that it visits (43_interlace_sequencer.md R203, R209). -/
theorem visits_iff_exists_xform {t : PassTable} {w h k px py : Nat} (hg : geometryOk (geometryOf t k) = true) (hx : px < w)
    (hy : py < h) :
    visits t px py k = true ↔ ∃ x < passWidth t k w, ∃ y < passHeight t k h, xform t k x y = (px, py) := by
  obtain ⟨-, -, hx0, hy0⟩ := geometryOk_pos hg
  simp only [visits, Bool.and_eq_true, decide_eq_true_eq, mod_eq_iff_exists_coordinate hx0 hx,
    mod_eq_iff_exists_coordinate hy0 hy]
  constructor
  · rintro ⟨⟨x, hxw, hpx⟩, y, hyh, hpy⟩
    exact ⟨x, hxw, y, hyh, Prod.ext hpx hpy⟩
  · rintro ⟨x, hxw, y, hyh, hp⟩
    exact ⟨⟨x, hxw, congrArg Prod.fst hp⟩, y, hyh, congrArg Prod.snd hp⟩

/-- Different pass-local pixels of a pass have different transforms (43_interlace_sequencer.md R203). -/
theorem xform_inj {t : PassTable} {k x y x' y' : Nat} (hg : geometryOk (geometryOf t k) = true)
    (h : xform t k x y = xform t k x' y') : x = x' ∧ y = y' := by
  obtain ⟨hsx, hsy, -, -⟩ := geometryOk_pos hg
  obtain ⟨hpx, hpy⟩ := Prod.mk.inj h
  exact ⟨Nat.eq_of_mul_eq_mul_right hsx (Nat.add_left_cancel hpx), Nat.eq_of_mul_eq_mul_right hsy (Nat.add_left_cancel hpy)⟩

/-- Settles O24: the pass is the one that visits the pixel, and within a pass the transform tells pixels apart. -/
theorem passesPartitionImage : Obligations.PassesPartitionImage := by
  unfold Obligations.PassesPartitionImage
  intro t w h px py htable hpx hpy
  obtain ⟨k, ⟨⟨hk1, hk7⟩, hvisits⟩, hunique⟩ := existsUnique_visits htable px py
  obtain ⟨x, hx, y, hy, hp⟩ := (visits_iff_exists_xform (tableOk_geometry htable hk7) hpx hpy).1 hvisits
  refine ⟨k, x, y, ⟨hk1, hk7, hx, hy, hp⟩, fun k' x' y' hk1' hk7' hx' hy' hp' => ?_⟩
  have hvisits' := (visits_iff_exists_xform (tableOk_geometry htable hk7') hpx hpy).2 ⟨x', hx', y', hy', hp'⟩
  obtain rfl : k' = k := hunique k' ⟨⟨hk1', hk7'⟩, hvisits'⟩
  exact ⟨rfl, xform_inj (tableOk_geometry htable hk7') (hp'.trans hp.symm)⟩

/-! ### The self-check counts the image -/

/-- One axis of S.DIMS counts the coordinates of the pass (43_interlace_sequencer.md R202). -/
theorem card_filter_mod_eq {n o d : Nat} (ho : o < d) :
    ((Finset.range n).filter fun c => c % d = o).card = axisCount n o d := by
  have hd : 0 < d := Nat.zero_lt_of_lt ho
  have himage : ((Finset.range n).filter fun c => c % d = o) =
      (Finset.range (axisCount n o d)).image fun x => o + x * d := by
    ext c
    simp only [Finset.mem_filter, Finset.mem_range, Finset.mem_image]
    constructor
    · rintro ⟨hc, hmod⟩
      exact (mod_eq_iff_exists_coordinate ho hc).1 hmod
    · rintro ⟨x, hx, rfl⟩
      have hlt := (lt_axisCount hd).1 hx
      exact ⟨hlt, (mod_eq_iff_exists_coordinate ho hlt).2 ⟨x, hx, rfl⟩⟩
  have hinj : Function.Injective fun x => o + x * d := fun x y hxy =>
    Nat.eq_of_mul_eq_mul_right hd (Nat.add_left_cancel hxy)
  rw [himage, Finset.card_image_of_injective _ hinj, Finset.card_range]

/-- The pixel count of a pass counts the pixels of the image that it visits (43_interlace_sequencer.md R206). -/
theorem card_filter_visits {t : PassTable} {k : Nat} (hg : geometryOk (geometryOf t k) = true) (w h : Nat) :
    ((Finset.range w ×ˢ Finset.range h).filter fun p => visits t p.1 p.2 k).card = passPixels t w h k := by
  obtain ⟨-, -, hx0, hy0⟩ := geometryOk_pos hg
  simp only [visits, Bool.and_eq_true, decide_eq_true_eq]
  rw [Finset.filter_product (· % (geometryOf t k).sx = _) (· % (geometryOf t k).sy = _), Finset.card_product,
    card_filter_mod_eq hx0, card_filter_mod_eq hy0]
  rfl

theorem selfCheckSum_eq_sum (t : PassTable) (w h : Nat) : selfCheckSum t w h = ∑ k ∈ Finset.Icc 1 7, passPixels t w h k := by
  simp [selfCheckSum, Finset.sum_Icc_succ_top]

/-- Under a well-formed table the self-check never fails: it counts each pixel of the image once, at the one pass that visits it
(43_interlace_sequencer.md R209 (b), R210). -/
theorem selfCheckSum_eq_mul {t : PassTable} (htable : tableOk t = true) (w h : Nat) : selfCheckSum t w h = w * h := by
  have hpass : ∀ k ∈ Finset.Icc 1 7, passPixels t w h k =
      ((Finset.range w ×ˢ Finset.range h).bipartiteAbove (fun k p => visits t p.1 p.2 k = true) k).card := fun k hk =>
    (card_filter_visits (tableOk_geometry htable (Finset.mem_Icc.1 hk).2) w h).symm
  have howner : ∀ p ∈ Finset.range w ×ˢ Finset.range h,
      ((Finset.Icc 1 7).bipartiteBelow (fun k p => visits t p.1 p.2 k = true) p).card = 1 := fun p _ =>
    Finset.card_eq_one_iff_existsUnique.2 (by
      simpa only [Finset.mem_bipartiteBelow, Finset.mem_Icc] using existsUnique_visits htable p.1 p.2)
  rw [selfCheckSum_eq_sum, Finset.sum_congr rfl hpass, Finset.sum_card_bipartiteAbove_eq_sum_card_bipartiteBelow,
    Finset.sum_congr rfl howner]
  simp

/-- Settles O25: the default table is one of those whose passes partition every image. -/
theorem defaultSelfCheckNeverFails : Obligations.DefaultSelfCheckNeverFails := by
  unfold Obligations.DefaultSelfCheckNeverFails
  exact ⟨tableOk_defaultPassTable, selfCheckSum_eq_mul tableOk_defaultPassTable⟩

/-! ### Where the sequencer goes after a record -/

/-- Pass `k` has no pixel (43_interlace_sequencer.md R205). -/
def EmptyPass (s : State) (k : Nat) : Prop :=
  passWidth s.params.passTable k s.width.toNat = 0 ∨ passHeight s.params.passTable k s.height.toNat = 0

/-- The sequencer's test of PW and PH is a test of the pass (43_interlace_sequencer.md R205). -/
theorem setDims_eq_zero_iff {s : State} {k : Nat} (htable : tableOk s.params.passTable = true) (hk : k ≤ 7) :
    (setDims k s).pw = 0 ∨ (setDims k s).ph = 0 ↔ EmptyPass s k := by
  obtain ⟨hpw, hph⟩ := toNat_setDims htable hk
  rw [EmptyPass, ← hpw, ← hph, ← BitVec.toNat_inj, ← BitVec.toNat_inj]
  rfl

theorem enterPass_cons_of_empty {s : State} {k : Nat} (htable : tableOk s.params.passTable = true) (hk : k ≤ 7)
    (h : EmptyPass s k) (ks : List Nat) :
    enterPass s (k :: ks) = enterPass (setDims k { s with pass := BitVec.ofNat 3 k }) ks :=
  if_pos ((setDims_eq_zero_iff htable hk).2 h)

theorem enterPass_cons_of_not_empty {s : State} {k : Nat} (htable : tableOk s.params.passTable = true) (hk : k ≤ 7)
    (h : ¬ EmptyPass s k) (ks : List Nat) :
    enterPass s (k :: ks) = { setDims k { s with pass := BitVec.ofNat 3 k } with py := 0 } :=
  if_neg fun hzero => h ((setDims_eq_zero_iff htable hk).1 hzero)

/-- The first pass of a rising list that is not empty is entered at row 0, whatever the empty ones before it left in the
position registers (43_interlace_sequencer.md R205, R207). -/
theorem enterPass_of_first {s : State} {ks : List Nat} {k : Nat} (htable : tableOk s.params.passTable = true)
    (hks : ∀ j ∈ ks, j ≤ 7) (hrising : ks.Pairwise (· < ·)) (hk : k ∈ ks) (hfull : ¬ EmptyPass s k)
    (hempty : ∀ j ∈ ks, j < k → EmptyPass s j) :
    enterPass s ks = { setDims k { s with pass := BitVec.ofNat 3 k } with py := 0 } := by
  induction ks generalizing s with
  | nil => cases hk
  | cons j ks ih =>
    have hj : j ≤ 7 := hks j List.mem_cons_self
    obtain ⟨hfirst, hrest⟩ := List.pairwise_cons.1 hrising
    rcases List.mem_cons.1 hk with rfl | hmem
    · exact enterPass_cons_of_not_empty htable hj hfull ks
    · rw [enterPass_cons_of_empty htable hj (hempty j List.mem_cons_self (hfirst k hmem))]
      exact ih (s := setDims j { s with pass := BitVec.ofNat 3 j }) htable (fun i hi => hks i (List.mem_cons_of_mem _ hi))
        hrest hmem hfull fun i hi => hempty i (List.mem_cons_of_mem _ hi)

/-- Where every pass of the list is empty the decode is complete (43_interlace_sequencer.md R207). -/
theorem enterPass_of_all_empty {s : State} {ks : List Nat} (htable : tableOk s.params.passTable = true)
    (hks : ∀ j ∈ ks, j ≤ 7) (hempty : ∀ j ∈ ks, EmptyPass s j) :
    ∃ (q : BitVec 3) (m n : BitVec 32), enterPass s ks = finish { s with pass := q, pw := m, ph := n } := by
  rcases enterPass_cases s ks with hfinish | ⟨k, hk, h, hpw, hph⟩
  · exact hfinish
  · rw [h] at hpw hph
    exact absurd ((setDims_eq_zero_iff htable (hks k hk)).2 (hempty k hk)) (not_or.2 ⟨hpw, hph⟩)

theorem afterRecord_of_run {s : State} (h : s.run = .run) : afterRecord (.next s) = .next (nextRecord s) :=
  congrArg _ (if_pos h)

theorem nextRecord_of_row {s : State} (h : s.py.toNat + 1 < s.ph.toNat) : nextRecord s = { s with py := s.py + 1 } :=
  if_pos h

theorem nextRecord_of_last_row {s : State} (h : s.py.toNat + 1 = s.ph.toNat) :
    nextRecord s = enterPass s (passesAfter s.ilace s.pass.toNat) :=
  if_neg h.not_lt

theorem mem_passesAfter {ilace : Byte} {j k : Nat} : k ∈ passesAfter ilace j ↔ k ∈ allPasses ilace ∧ j < k := by
  simp [passesAfter]

theorem le_of_mem_passesAfter {ilace : Byte} {j k : Nat} (h : k ∈ passesAfter ilace j) : k ≤ 7 :=
  mem_allPasses_le (mem_allPasses_of_mem_passesAfter h)

/-- PASS holds the number of any pass (10_state.md R23). -/
theorem toNat_ofNat_pass {k : Nat} (hk : k ≤ 7) : (BitVec.ofNat 3 k).toNat = k := by
  rw [BitVec.toNat_ofNat, Nat.mod_eq_of_lt (by omega)]

/-- Settles O6: after the last row of a pass the sequencer runs through the passes that follow, of which the first that is not
empty is entered. -/
theorem sequencerVisitsRowsThenPasses : Obligations.SequencerVisitsRowsThenPasses := by
  unfold Obligations.SequencerVisitsRowsThenPasses
  intro s hrun _ _ htable
  rw [afterRecord_of_run hrun]
  refine ⟨fun hrow => by rw [nextRecord_of_row hrow], fun hlast k hk hafter hpw hph hempty => ?_, fun hlast hempty => ?_⟩
  · have hk7 := mem_allPasses_le hk
    have hfull : ¬ EmptyPass s k := not_or.2 ⟨Nat.ne_of_gt hpw, Nat.ne_of_gt hph⟩
    have henter := enterPass_of_first htable (fun _ => le_of_mem_passesAfter) ((pairwise_allPasses s.ilace).filter _)
      (mem_passesAfter.2 ⟨hk, hafter⟩) hfull fun j hj => hempty j (mem_passesAfter.1 hj).1 (mem_passesAfter.1 hj).2
    have hdims := toNat_setDims (s := { s with pass := BitVec.ofNat 3 k }) htable hk7
    exact ⟨_, congrArg Host.Outcome.next ((nextRecord_of_last_row hlast).trans henter), rfl, toNat_ofNat_pass hk7, hdims⟩
  · obtain ⟨q, m, n, hfinish⟩ := enterPass_of_all_empty htable (fun _ => le_of_mem_passesAfter)
      fun j hj => hempty j (mem_passesAfter.1 hj).1 (mem_passesAfter.1 hj).2
    exact ⟨_, congrArg Host.Outcome.next ((nextRecord_of_last_row hlast).trans hfinish), rfl, rfl, rfl, rfl, rfl⟩

/-! ### A running decode ends -/

theorem length_allPasses_le (ilace : Byte) : (allPasses ilace).length ≤ 7 := by
  unfold allPasses
  split <;> decide

/-- The passes that follow a pass of the decode are at most six: it is not among them. -/
theorem length_passesAfter_le {ilace : Byte} {k : Nat} (h : k ∈ allPasses ilace) : (passesAfter ilace k).length ≤ 6 := by
  have hlt : (passesAfter ilace k).length < (allPasses ilace).length :=
    List.length_filter_lt_length_iff_exists.2 ⟨k, h, by simp⟩
  have := length_allPasses_le ilace
  omega

/-- A pass that follows has fewer passes after it. -/
theorem length_passesAfter_lt {ilace : Byte} {j k : Nat} (h : k ∈ passesAfter ilace j) :
    (passesAfter ilace k).length < (passesAfter ilace j).length := by
  obtain ⟨-, hjk⟩ := mem_passesAfter.1 h
  have hfilter : passesAfter ilace k = (passesAfter ilace j).filter (k < ·) := by
    rw [passesAfter, passesAfter, List.filter_filter]
    exact List.filter_congr fun i _ => by simp; omega
  rw [hfilter]
  exact List.length_filter_lt_length_iff_exists.2 ⟨k, h, by simp⟩

/-- A bound on the records still to come: the rows left of the current pass, and H for each pass that follows
(43_interlace_sequencer.md R211). -/
def recordsLeft (s : State) : Nat :=
  (passesAfter s.ilace s.pass.toNat).length * s.height.toNat + (s.ph.toNat - s.py.toNat)

theorem PositionOk.ph_le {s : State} (h : PositionOk s) (htable : tableOk s.params.passTable = true) :
    s.ph.toNat ≤ s.height.toNat := by
  obtain ⟨hpass, -, hph, -, -⟩ := h
  exact hph ▸ passHeight_le htable (mem_allPasses_le hpass) _

/-- At most seven times H records are to come (43_interlace_sequencer.md R211). -/
theorem recordsLeft_le {s : State} (htable : tableOk s.params.passTable = true) (hpos : PositionOk s) :
    recordsLeft s ≤ 7 * s.height.toNat := by
  have hph := hpos.ph_le htable
  obtain ⟨hpass, -, -, -, -⟩ := hpos
  calc recordsLeft s ≤ 6 * s.height.toNat + s.height.toNat :=
        Nat.add_le_add (Nat.mul_le_mul_right _ (length_passesAfter_le hpass)) ((Nat.sub_le _ _).trans hph)
    _ = 7 * s.height.toNat := (Nat.succ_mul 6 _).symm

/-- There is a record to come as long as the decode runs. -/
theorem recordsLeft_pos {s : State} (hpos : PositionOk s) : 0 < recordsLeft s := by
  obtain ⟨-, -, -, -, hpy⟩ := hpos
  exact Nat.add_pos_right _ (Nat.sub_pos_of_lt hpy)

/-- The bound at row 0 of a later pass is below the bound at any row before (43_interlace_sequencer.md R207). -/
theorem recordsLeft_enterPass_lt {s : State} {k : Nat} (htable : tableOk s.params.passTable = true) (hpos : PositionOk s)
    (hk : k ∈ passesAfter s.ilace s.pass.toNat) :
    recordsLeft { setDims k { s with pass := BitVec.ofNat 3 k } with py := 0 } < recordsLeft s := by
  have hk7 := le_of_mem_passesAfter hk
  obtain ⟨-, hph⟩ := toNat_setDims htable hk7
  obtain ⟨-, -, -, -, hpy⟩ := hpos
  calc recordsLeft { setDims k { s with pass := BitVec.ofNat 3 k } with py := 0 }
      = (passesAfter s.ilace k).length * s.height.toNat + (setDims k s).ph.toNat :=
        congrArg (fun j => (passesAfter s.ilace j).length * s.height.toNat + (setDims k s).ph.toNat) (toNat_ofNat_pass hk7)
    _ ≤ ((passesAfter s.ilace k).length + 1) * s.height.toNat := by
        rw [Nat.add_one_mul, hph]
        exact Nat.add_le_add_left (passHeight_le htable hk7 _) _
    _ ≤ (passesAfter s.ilace s.pass.toNat).length * s.height.toNat :=
        Nat.mul_le_mul_right _ (length_passesAfter_lt hk)
    _ < recordsLeft s := Nat.lt_add_of_pos_right (Nat.sub_pos_of_lt hpy)

/-- The move to the next record takes one off the bound, unless it completes the decode. -/
theorem recordsLeft_nextRecord_lt {s : State} (htable : tableOk s.params.passTable = true) (hpos : PositionOk s) :
    (nextRecord s).run = .done ∨ recordsLeft (nextRecord s) < recordsLeft s := by
  unfold nextRecord
  split
  case isTrue hrow =>
    have hpy : (s.py + 1).toNat = s.py.toNat + 1 := BitVec.toNat_add_of_lt (y := 1) (hrow.trans s.ph.isLt)
    refine .inr (Nat.add_lt_add_left ?_ _)
    dsimp only
    omega
  case isFalse =>
    rcases enterPass_cases s (passesAfter s.ilace s.pass.toNat) with ⟨q, m, n, h⟩ | ⟨k, hk, h, -, -⟩ <;> rw [h]
    · exact .inl (finish_run _)
    · exact .inr (recordsLeft_enterPass_lt htable hpos hk)

/-- A record step of a running decode takes one off the bound, unless it ends the decode. -/
theorem recordsLeft_stepRecord_lt {s t : State} (h : stepRecord s = .next t) (hrun : s.run = .run) (hs : RunningOk s) :
    (t.run = .done ∨ t.run = .fault) ∨ recordsLeft t < recordsLeft s := by
  obtain ⟨htable, hrunning⟩ := hs
  obtain ⟨-, -, hpos⟩ := hrunning hrun
  obtain ⟨u, hu, ⟨e, info, rfl⟩ | ⟨rfl, -⟩⟩ := stepRecord_frame h hrun
  · exact .inl (.inr (takeFault_run _ _ _ _))
  · have hend : tableOk (endRecord (rowBytes s) u).params.passTable = true ∧ PositionOk (endRecord (rowBytes s) u) ∧
        recordsLeft (endRecord (rowBytes s) u) = recordsLeft s := by
      rw [hu.eq]
      exact ⟨htable, hpos, rfl⟩
    obtain ⟨htable', hpos', hleft⟩ := hend
    exact (recordsLeft_nextRecord_lt htable' hpos').imp .inl fun hlt => hleft ▸ hlt

/-- A decode runs, no reset input is due, and the host has met its obligations (70_reset_and_hazards.md R283). -/
structure Decoding (s : State) : Prop where
  run : s.run = .run
  reset : s.resetIn = none
  running : RunningOk s
  stream : StreamWritten s
  palette : PaletteWritten s

/-- A step of such a decode ends it, or leaves such a decode with a smaller bound. -/
theorem Decoding.step {s : State} (h : Decoding s) :
    ∃ t, step s = .next t ∧ ((t.run = .done ∨ t.run = .fault) ∨ Decoding t ∧ recordsLeft t < recordsLeft s) := by
  obtain ⟨t, ht⟩ := runningDecodeNeverStuck s h.run h.running h.stream h.palette
  have hrec : stepRecord s = .next t := step_of_run h.reset h.run ▸ ht
  refine ⟨t, ht, ?_⟩
  rcases stepRecord_run hrec h.run with htrun | hend
  · have heq := stepRecord_eq hrec h.run
    refine (recordsLeft_stepRecord_lt hrec h.run h.running).imp_right fun hlt =>
      ⟨⟨htrun, ?_, stepKeepsRunningDecode s t h.running ht, ?_, ?_⟩, hlt⟩ <;> rw [heq]
    · exact h.reset
    · exact h.stream
    · exact h.palette
  · exact .inl hend

theorem stepN_succ_of_next {s t : State} (h : step s = .next t) (n : Nat) : stepN (n + 1) s = stepN n t := by
  rw [stepN, h]

/-- Such a decode ends within its bound. -/
theorem Decoding.ends {s : State} {b : Nat} (h : Decoding s) (hb : recordsLeft s ≤ b) :
    ∃ n t, n ≤ b ∧ stepN n s = .next t ∧ (t.run = .done ∨ t.run = .fault) := by
  induction b generalizing s with
  | zero =>
    obtain ⟨-, -, hpos⟩ := h.running.2 h.run
    exact absurd hb (recordsLeft_pos hpos).not_ge
  | succ b ih =>
    obtain ⟨t, ht, hend | ⟨hdecoding, hlt⟩⟩ := h.step
    · exact ⟨1, t, Nat.succ_pos b, stepN_succ_of_next ht 0, hend⟩
    · obtain ⟨n, v, hn, hv, hend⟩ := ih hdecoding (Nat.le_of_lt_succ (hlt.trans_le hb))
      exact ⟨n + 1, v, Nat.succ_le_succ hn, (stepN_succ_of_next ht n).trans hv, hend⟩

/-- Settles O51: the decode ends within its bound, which starts at no more than seven times H. -/
theorem decodeTerminates : Obligations.DecodeTerminates := by
  unfold Obligations.DecodeTerminates
  intro s hrun hreset hs hstream hpalette
  obtain ⟨-, -, hpos⟩ := hs.2 hrun
  exact Decoding.ends ⟨hrun, hreset, hs, hstream, hpalette⟩ (recordsLeft_le hs.1 hpos)

end Sys2Proof.Machine
end

section
/-! PROOFS. The commands (44_commands.md): which is accepted when, the start checks and the start of C.DECODE, the stream that
C.ENCSUB writes, and C.CLEAR. -/

namespace Sys2Proof.Machine

/-! ### Acceptance and C.CLEAR -/

theorem execCDecode_of_not_idle {s : State} (h : s.run ≠ .idle) : execCDecode s = .refused .commandNotIdle := if_neg h

theorem execCEncsub_of_not_idle {s : State} (h : s.run ≠ .idle) : execCEncsub s = .refused .commandNotIdle := if_neg h

theorem execCClear_of_not_run {s : State} (h : s.run ≠ .run) : execCClear s = .next (clearCall s) := if_neg h

/-- `CTRL` keeps the low byte of what is written to it (10_state.md R35). -/
theorem ofNat_ctrl {v n : Nat} (h : v % 256 = n) : BitVec.ofNat 8 v = BitVec.ofNat 8 n := by
  apply BitVec.eq_of_toNat_eq
  rw [BitVec.toNat_ofNat, BitVec.toNat_ofNat, ← h]
  exact (Nat.mod_mod v 256).symm

theorem hostMove_reservedCommand {v : Nat} (s : State) (h : v % 256 = 0 ∨ 3 < v % 256) :
    hostMove (.writeReg 0 v) s = .refuse (.reservedCommand (BitVec.ofNat 8 v)) := by
  have hreserved : (BitVec.ofNat 8 v).toNat = 0 ∨ 3 < (BitVec.ofNat 8 v).toNat := by rwa [BitVec.toNat_ofNat]
  simp [hostMove, writeCtrl, decode_ctrl_of_reserved hreserved]

/-- Settles O38: the code decides what the step is, and STATE whether the command it executes is accepted. -/
theorem commandAcceptance : Obligations.CommandAcceptance := by
  unfold Obligations.CommandAcceptance
  intro s v rest hreset hrun hhost
  have command : ∀ {i : Instr}, decode (.ctrl (BitVec.ofNat 8 v)) = .ok i → step s = exec i { s with host := rest } :=
    step_of_command hreset hrun hhost
  refine ⟨fun hcode hidle => ?_, fun hcode => ?_, fun hcode => ?_⟩
  · rcases hcode with h1 | h2
    · exact (command (decode_ctrl_eq_ok.2 (.inl ⟨ofNat_ctrl h1, rfl⟩))).trans (execCDecode_of_not_idle hidle)
    · exact (command (decode_ctrl_eq_ok.2 (.inr (.inl ⟨ofNat_ctrl h2, rfl⟩)))).trans (execCEncsub_of_not_idle hidle)
  · exact ⟨_, (command (decode_ctrl_eq_ok.2 (.inr (.inr ⟨ofNat_ctrl hcode, rfl⟩)))).trans (execCClear_of_not_run hrun),
      rfl⟩
  · exact step_of_refuse hreset hrun hhost (hostMove_reservedCommand _ hcode)

/-- Settles O37: what C.CLEAR does is `clearCall`, which draws the position registers and latches and writes out the rest. -/
theorem clearDiscardsCallState : Obligations.ClearDiscardsCallState := by
  unfold Obligations.ClearDiscardsCallState
  exact fun s hrun => ⟨clearCall s, execCClear_of_not_run hrun, rfl⟩

/-! ### The start checks of C.DECODE -/

theorem legalDepth_iff {depth : Byte} : legalDepth depth = true ↔ depth.toNat ∈ [1, 2, 4, 8] := by
  refine ⟨depth_mem_of_legalDepth, fun h => ?_⟩
  simp only [List.mem_cons, List.not_mem_nil, or_false] at h
  simp only [legalDepth, Bool.or_eq_true, beq_iff_eq, or_assoc]
  exact h.imp BitVec.eq_of_toNat_eq <| .imp BitVec.eq_of_toNat_eq <| .imp BitVec.eq_of_toNat_eq BitVec.eq_of_toNat_eq

theorem legalCtype_iff {ctype : Byte} : legalCtype ctype = true ↔ ctype.toNat ∈ [0, 2, 3, 4, 6] := by
  refine ⟨ctype_mem_of_legalCtype, fun h => ?_⟩
  simp only [List.mem_cons, List.not_mem_nil, or_false] at h
  simp only [legalCtype, Bool.or_eq_true, beq_iff_eq, or_assoc]
  exact h.imp BitVec.eq_of_toNat_eq <| .imp BitVec.eq_of_toNat_eq <| .imp BitVec.eq_of_toNat_eq <|
    .imp BitVec.eq_of_toNat_eq BitVec.eq_of_toNat_eq

theorem legalIlace_iff {ilace : Byte} : legalIlace ilace = true ↔ ilace.toNat ≤ 1 := by
  have h0 : ilace = 0 ↔ ilace.toNat = 0 := BitVec.toNat_inj.symm
  have h1 : ilace = 1 ↔ ilace.toNat = 1 := BitVec.toNat_inj.symm
  simp only [legalIlace, Bool.or_eq_true, beq_iff_eq, h0, h1]
  omega

theorem fits_eq_false_iff {cap : Option Nat} {n : Nat} : fits cap n = false ↔ ∃ c, cap = some c ∧ c < n := by
  cases cap <;> simp [fits]

/-! The start checks in their order: what comes of one that fails where those before it pass (44_commands.md R222). -/

section StartCheck

variable {s : State}

theorem startCheck_of_zeroArea (h : s.width = 0 ∨ s.height = 0) : startCheck s = some (.zeroArea, 0) := if_pos h

variable (hzero : ¬ (s.width = 0 ∨ s.height = 0))
include hzero

theorem startCheck_of_depth (h : ¬ legalDepth s.depth) : startCheck s = some (.depth, s.depth.setWidth 32) :=
  (if_neg hzero).trans (if_pos h)

variable (hdepth : legalDepth s.depth)
include hdepth

theorem startCheck_of_ctype (h : ¬ legalCtype s.ctype) : startCheck s = some (.ctype, s.ctype.setWidth 32) :=
  (if_neg hzero).trans <| (if_neg (not_not.2 hdepth)).trans (if_pos h)

variable (hctype : legalCtype s.ctype)
include hctype

theorem startCheck_of_ilace (h : ¬ legalIlace s.ilace) : startCheck s = some (.ilace, s.ilace.setWidth 32) :=
  (if_neg hzero).trans <| (if_neg (not_not.2 hdepth)).trans <| (if_neg (not_not.2 hctype)).trans (if_pos h)

variable (hilace : legalIlace s.ilace)
include hilace

theorem startCheck_of_legal : startCheck s =
    if ¬ fits s.params.fbCapacity (area s) then some (.capacity, 0)
    else if s.ilace = 1 ∧ selfCheckSum s.params.passTable s.width.toNat s.height.toNat ≠ area s then some (.selfcheck, 0)
    else none :=
  (if_neg hzero).trans <| (if_neg (not_not.2 hdepth)).trans <| (if_neg (not_not.2 hctype)).trans <|
    if_neg (not_not.2 hilace)

theorem startCheck_of_capacity (h : ¬ fits s.params.fbCapacity (area s)) : startCheck s = some (.capacity, 0) :=
  (startCheck_of_legal hzero hdepth hctype hilace).trans (if_pos h)

variable (hcap : fits s.params.fbCapacity (area s))
include hcap

theorem startCheck_of_selfcheck
    (h : s.ilace = 1 ∧ selfCheckSum s.params.passTable s.width.toNat s.height.toNat ≠ area s) :
    startCheck s = some (.selfcheck, 0) :=
  (startCheck_of_legal hzero hdepth hctype hilace).trans <| (if_neg (not_not.2 hcap)).trans (if_pos h)

theorem startCheck_of_pass
    (h : ¬ (s.ilace = 1 ∧ selfCheckSum s.params.passTable s.width.toNat s.height.toNat ≠ area s)) : startCheck s = none :=
  (startCheck_of_legal hzero hdepth hctype hilace).trans <| (if_neg (not_not.2 hcap)).trans (if_neg h)

end StartCheck

/-- Where one of the conditions fails a check is reported. -/
theorem exists_failed_check {s : State} (h : (s.width = 0 ∨ s.height = 0) ∨ ¬ legalDepth s.depth ∨ ¬ legalCtype s.ctype ∨
    ¬ legalIlace s.ilace ∨ ¬ fits s.params.fbCapacity (area s) ∨
    (s.ilace = 1 ∧ selfCheckSum s.params.passTable s.width.toNat s.height.toNat ≠ area s)) :
    ∃ e info, startCheck s = some (e, info) := by
  cases hcheck : startCheck s with
  | some p => exact ⟨p.1, p.2, rfl⟩
  | none =>
    obtain ⟨hw, hh, hdepth, hctype, hilace, hcap⟩ := configOk_of_startCheck hcheck
    have hself := h.resolve_left (not_or.2 ⟨hw, hh⟩)
    simp only [hdepth, hctype, hilace, hcap, not_true_eq_false, false_or] at hself
    have hfail := startCheck_of_selfcheck (not_or.2 ⟨hw, hh⟩) hdepth hctype hilace hcap hself
    simp [hcheck] at hfail

theorem execCDecode_of_fault {s : State} {e : Exc} {info : BitVec 32} (hidle : s.run = .idle)
    (h : startCheck s = some (e, info)) : execCDecode s = .next (takeFault .decode e info (beginDecode s)) := by
  have hcheck : startCheck (beginDecode s) = some (e, info) := h
  simp [execCDecode, hidle, hcheck]

theorem execCDecode_of_pass {s : State} (hidle : s.run = .idle) (h : startCheck s = none) :
    execCDecode s = .next (enterPass (zeroFill (beginDecode s)) (allPasses s.ilace)) := by
  have hcheck : startCheck (beginDecode s) = none := h
  simp [execCDecode, hidle, hcheck]

/-- What the machine is after a start check has failed (60_exceptions.md R250, R252). -/
theorem takeFault_beginDecode_eq (e : Exc) (info : BitVec 32) (s : State) :
    let t := takeFault .decode e info (beginDecode s)
    t = { s with
      run := .fault, err := t.err, errInfo := t.errInfo, errCur := 0, warn := 0, cur := 0, pass := 0, py := 0, px := 0
      pw := t.pw, ph := t.ph, ft := t.ft, latches := t.latches, fb := t.fb, trace := t.trace, seed := t.seed } := rfl

theorem selfCheckSum_eq_sum_range (t : PassTable) (w h : Nat) :
    ((List.range 7).map fun k => passWidth t (k + 1) w * passHeight t (k + 1) h).sum = selfCheckSum t w h := by
  simp [List.range_succ, selfCheckSum, passPixels, Nat.add_assoc]

/-- Settles O32: the checks are tried in the order of the rule, and the first that fails is the fault that is taken. -/
theorem decodeReportsFirstFailedCheck : Obligations.DecodeReportsFirstFailedCheck := by
  unfold Obligations.DecodeReportsFirstFailedCheck
  intro s hidle w h sum zero depth ctype ilace capacity selfcheck hfail
  have hzero : (s.width = 0 ∨ s.height = 0) ↔ zero := or_congr BitVec.toNat_inj.symm BitVec.toNat_inj.symm
  have hdepth : legalDepth s.depth = true ↔ ¬ depth := legalDepth_iff.trans not_not.symm
  have hctype : legalCtype s.ctype = true ↔ ¬ ctype := legalCtype_iff.trans not_not.symm
  have hilace : legalIlace s.ilace = true ↔ ¬ ilace := legalIlace_iff.trans Nat.not_lt.symm
  have hcapacity : fits s.params.fbCapacity (area s) = true ↔ ¬ capacity := by
    rw [← Bool.not_eq_false]
    exact not_congr fits_eq_false_iff
  have hselfcheck : (s.ilace = 1 ∧ selfCheckSum s.params.passTable w h ≠ area s) ↔ selfcheck :=
    and_congr BitVec.toNat_inj.symm (by rw [← selfCheckSum_eq_sum_range]; rfl)
  obtain ⟨e, info, hcheck⟩ := exists_failed_check (s := s) (by
    rwa [hzero, hdepth, hctype, hilace, hcapacity, hselfcheck, not_not, not_not, not_not, not_not])
  have reported : ∀ {e' info'}, startCheck s = some (e', info') → excCode e = excCode e' ∧ info = info' := fun h => by
    cases hcheck.symm.trans h
    exact ⟨rfl, rfl⟩
  refine ⟨takeFault .decode e info (beginDecode s), execCDecode_of_fault hidle hcheck, takeFault_beginDecode_eq e info s,
    fun hz => ?_, fun hz hd => ?_, fun hz hd hc => ?_, fun hz hd hc hi => ?_, fun hz hd hc hi hcap => ?_,
    fun hz hd hc hi hcap => ?_, fun a ha => takeFault_decode_fb_above _ _ (beginDecode s) ha⟩ <;>
    simp only [takeFault_err, takeFault_errInfo]
  · exact reported (startCheck_of_zeroArea (hzero.2 hz))
  · obtain ⟨herr, rfl⟩ := reported (startCheck_of_depth (hzero.not.2 hz) (hdepth.not.2 (not_not.2 hd)))
    exact ⟨herr, BitVec.toNat_setWidth_of_le (by decide)⟩
  · obtain ⟨herr, rfl⟩ := reported (startCheck_of_ctype (hzero.not.2 hz) (hdepth.2 hd) (hctype.not.2 (not_not.2 hc)))
    exact ⟨herr, BitVec.toNat_setWidth_of_le (by decide)⟩
  · obtain ⟨herr, rfl⟩ := reported
      (startCheck_of_ilace (hzero.not.2 hz) (hdepth.2 hd) (hctype.2 hc) (hilace.not.2 (not_not.2 hi)))
    exact ⟨herr, BitVec.toNat_setWidth_of_le (by decide)⟩
  · exact reported (startCheck_of_capacity (hzero.not.2 hz) (hdepth.2 hd) (hctype.2 hc) (hilace.2 hi)
      (hcapacity.not.2 (not_not.2 hcap)))
  · refine reported (startCheck_of_selfcheck (hzero.not.2 hz) (hdepth.2 hd) (hctype.2 hc) (hilace.2 hi) (hcapacity.2 hcap)
      (hselfcheck.2 ?_))
    simpa only [hz, hd, hc, hi, hcap, false_or] using hfail

/-! ### The start of C.DECODE -/

/-- An image with a pixel has a pass that is not empty (43_interlace_sequencer.md R209). -/
theorem exists_first_pass {s : State} (htable : tableOk s.params.passTable = true) (hw : s.width ≠ 0) (hh : s.height ≠ 0) :
    ∃ k ∈ allPasses s.ilace, ¬ EmptyPass s k ∧ ∀ j ∈ allPasses s.ilace, j < k → EmptyPass s j := by
  have harea : 0 < area s :=
    Nat.mul_pos (Nat.pos_of_ne_zero fun h => hw (BitVec.eq_of_toNat_eq h))
      (Nat.pos_of_ne_zero fun h => hh (BitVec.eq_of_toNat_eq h))
  obtain ⟨k, hk, x, hx, y, hy, -⟩ := exists_pass_of_lt_area htable s.ilace harea
  have hfull : ∃ k, k ∈ allPasses s.ilace ∧ ¬ EmptyPass s k :=
    ⟨k, hk, not_or.2 ⟨Nat.ne_zero_of_lt hx, Nat.ne_zero_of_lt hy⟩⟩
  classical
  obtain ⟨hmem, hne⟩ := Nat.find_spec hfull
  refine ⟨Nat.find hfull, hmem, hne, fun j hj hlt => ?_⟩
  by_contra hj'
  exact Nat.find_min hfull hlt ⟨hj, hj'⟩

/-- A read of FB after the zero fill (44_commands.md R222). -/
theorem memRead_zeroFill (s : State) (a : Nat) :
    memRead (zeroFill s).fb a = if a < area s then some 0 else memRead s.fb a := by
  rw [zeroFill_fb, memRead_memStorePrefix]
  simp

/-- Settles O33: with every check passed the sequencer enters, of the passes of the decode, the first that is not empty. -/
theorem decodeStartsAtFirstPass : Obligations.DecodeStartsAtFirstPass := by
  unfold Obligations.DecodeStartsAtFirstPass
  intro s hidle ⟨hw, hh, hdepth, hctype, hilace, hcap⟩ htable hself
  have hcheck : startCheck s = none := startCheck_of_pass (not_or.2 ⟨hw, hh⟩) hdepth hctype hilace hcap (by simpa using hself)
  obtain ⟨k, hk, hfull, hempty⟩ := exists_first_pass htable hw hh
  have hdims := not_or.1 ((setDims_eq_zero_iff (s := s) htable (mem_allPasses_le hk)).not.2 hfull)
  have henter := enterPass_of_first (s := zeroFill (beginDecode s)) htable (fun _ => mem_allPasses_le)
    (pairwise_allPasses s.ilace) hk hfull hempty
  refine ⟨_, (execCDecode_of_pass hidle hcheck).trans (congrArg _ henter), rfl,
    positionOk_setDims (s := zeroFill (beginDecode s)) htable hk hdims.1 hdims.2, fun j hj hlt => hempty j hj ?_,
    memRead_zeroFill (beginDecode s)⟩
  rwa [← toNat_ofNat_pass (mem_allPasses_le hk)]

/-! ### The start checks of C.ENCSUB -/

section Encsub

variable {s : State} (hidle : s.run = .idle)
include hidle

theorem execCEncsub_of_zeroArea (h : s.width = 0 ∨ s.height = 0) :
    execCEncsub s = .next (takeFault .encode .zeroArea 0 (beginEncode s)) :=
  (if_pos hidle).trans (if_pos h)

variable (hzero : ¬ (s.width = 0 ∨ s.height = 0))
include hzero

theorem execCEncsub_of_full (h : ¬ fits s.params.fbCapacity (area s) ∨ ¬ fits s.params.outCapacity (encodedLength s)) :
    execCEncsub s = .next (takeFault .encode .capacity 0 (beginEncode s)) :=
  (if_pos hidle).trans <| (if_neg hzero).trans (if_pos h)

theorem execCEncsub_of_ok (hfits : fits s.params.fbCapacity (area s) ∧ fits s.params.outCapacity (encodedLength s))
    {bytes : List Byte} (h : encodeRows (beginEncode s) s.height.toNat 0 = .ok bytes) :
    execCEncsub s = .next (finish { beginEncode s with out := memStorePrefix bytes s.out, outLen := bytes.length }) := by
  have hmatch : encodeRows (beginEncode s) (beginEncode s).height.toNat 0 = .ok bytes := h
  refine (if_pos hidle).trans <| (if_neg hzero).trans <| (if_neg ?_).trans ?_
  · exact not_or.2 ⟨not_not.2 hfits.1, not_not.2 hfits.2⟩
  · rw [hmatch]
    rfl

end Encsub

/-- What the machine is after a start check of C.ENCSUB has failed (60_exceptions.md R250, R252). -/
theorem takeFault_beginEncode_eq (e : Exc) (s : State) :
    let t := takeFault .encode e 0 (beginEncode s)
    t = { s with
      run := .fault, err := t.err, errInfo := 0, errCur := s.cur, warn := s.warn, cur := s.cur, pass := 0, py := 0
      px := 0, outLen := 0, out := t.out, pw := t.pw, ph := t.ph, ft := t.ft, latches := t.latches, trace := t.trace
      seed := t.seed } := rfl

/-- Settles O35: the empty image is the first of the two checks; CUR and WARN are 0 because they are in IDLE. -/
theorem encsubFaultsEmptyOrTooLarge : Obligations.EncsubFaultsEmptyOrTooLarge := by
  unfold Obligations.EncsubFaultsEmptyOrTooLarge
  intro s hidle hidleOk zero full hfail
  obtain ⟨hcur, hwarn, -⟩ := hidleOk hidle
  have hframe := fun e => takeFault_beginEncode_eq e s
  simp only [hcur, hwarn] at hframe
  by_cases hzero : zero
  · exact ⟨_, execCEncsub_of_zeroArea hidle hzero, hframe _, fun _ => rfl, fun h => absurd hzero h⟩
  · have hfull := (hfail.resolve_left hzero).imp Bool.eq_false_iff.1 Bool.eq_false_iff.1
    exact ⟨_, execCEncsub_of_full hidle hzero hfull, hframe _, fun h => absurd h hzero, fun _ => rfl⟩

/-! ### The stream of C.ENCSUB -/

theorem filteredSource_ok {s : State} {x y : Nat} {d : Pixel} (h : filteredSource s y x = .ok d) :
    ∃ p l, memRead s.fb (y * s.width.toNat + x) = some p ∧
      (if x = 0 then l = 0 else memRead s.fb (y * s.width.toNat + x - 1) = some l) ∧ d = pauSub p l := by
  unfold filteredSource at h
  obtain ⟨p, hp, h⟩ := except_bind_eq_ok.1 h
  refine ⟨p, ?_⟩
  rw [readFb_eq_ok] at hp
  dsimp only at h
  split at h
  · obtain ⟨l, hl, h⟩ := except_bind_eq_ok.1 h
    cases h
    exact ⟨l, hp, by rw [if_neg (by omega)]; exact readFb_eq_ok.1 hl, rfl⟩
  · cases h
    exact ⟨0, hp, by rw [if_pos (by omega)], rfl⟩

theorem getElem?_streamBytes (d : Pixel) {c : Nat} (hc : c < 4) : (streamBytes d)[c]? = some (lane d c) := by
  interval_cases c <;> rfl

/-- The bytes of a part of a row: four for each filtered pixel, in stream order (20_memory.md R66, 44_commands.md R226). -/
theorem encodeRow_ok {s : State} {y n x : Nat} {bytes : List Byte} (h : encodeRow s y n x = .ok bytes) :
    bytes.length = 4 * n ∧
    ∀ i < n, ∃ d, filteredSource s y (x + i) = .ok d ∧ ∀ c < 4, bytes[4 * i + c]? = some (lane d c) := by
  induction n generalizing x bytes with
  | zero =>
    cases h
    exact ⟨rfl, fun i hi => absurd hi (Nat.not_lt_zero i)⟩
  | succ n ih =>
    obtain ⟨d, hd, h⟩ := except_bind_eq_ok.1 h
    obtain ⟨rest, hrest, h⟩ := except_bind_eq_ok.1 h
    cases h
    obtain ⟨hlen, hbytes⟩ := ih hrest
    have hd4 : (streamBytes d).length = 4 := rfl
    refine ⟨by rw [List.length_append, hd4, hlen]; omega, fun i hi => ?_⟩
    cases i with
    | zero => exact ⟨d, hd, fun c hc => by rw [List.getElem?_append_left (by omega), Nat.mul_zero, Nat.zero_add,
        getElem?_streamBytes d hc]⟩
    | succ i =>
      obtain ⟨e, he, hpixel⟩ := hbytes i (by omega)
      refine ⟨e, by rwa [show x + (i + 1) = x + 1 + i by omega], fun c hc => ?_⟩
      rw [List.getElem?_append_right (by omega), hd4, show 4 * (i + 1) + c - 4 = 4 * i + c by omega, hpixel c hc]

/-- The bytes of rows: each opened by filter type Sub (30_encoding.md R107, 44_commands.md R226). -/
theorem encodeRows_ok {s : State} {n y : Nat} {bytes : List Byte} (h : encodeRows s n y = .ok bytes) :
    bytes.length = n * (1 + 4 * s.width.toNat) ∧
    ∀ j < n, bytes[j * (1 + 4 * s.width.toNat)]? = some 1 ∧
      ∀ x < s.width.toNat, ∃ d, filteredSource s (y + j) x = .ok d ∧
        ∀ c < 4, bytes[j * (1 + 4 * s.width.toNat) + 1 + 4 * x + c]? = some (lane d c) := by
  induction n generalizing y bytes with
  | zero =>
    cases h
    exact ⟨by simp, fun j hj => absurd hj (Nat.not_lt_zero j)⟩
  | succ n ih =>
    obtain ⟨row, hrow, h⟩ := except_bind_eq_ok.1 h
    obtain ⟨rest, hrest, h⟩ := except_bind_eq_ok.1 h
    cases h
    obtain ⟨hrowLen, hpixels⟩ := encodeRow_ok hrow
    obtain ⟨hlen, hrows⟩ := ih hrest
    have hlen1 : ((0x01 : Byte) :: row).length = 1 + 4 * s.width.toNat := by
      rw [List.length_cons, hrowLen, Nat.add_comm]
    refine ⟨by rw [List.length_append, hlen1, hlen, Nat.add_one_mul n, Nat.add_comm], fun j hj => ?_⟩
    cases j with
    | zero =>
      rw [Nat.zero_mul]
      refine ⟨rfl, fun x hx => ?_⟩
      obtain ⟨d, hd, hpixel⟩ := hpixels x hx
      refine ⟨d, by rwa [Nat.zero_add] at hd, fun c hc => ?_⟩
      rw [List.getElem?_append_left (by omega), show 0 + 1 + 4 * x + c = 4 * x + c + 1 by omega,
        List.getElem?_cons_succ, hpixel c hc]
    | succ j =>
      obtain ⟨hone, hrow'⟩ := hrows j (by omega)
      have hskip : ∀ k, (((0x01 : Byte) :: row) ++ rest)[(j + 1) * (1 + 4 * s.width.toNat) + k]? =
          rest[j * (1 + 4 * s.width.toNat) + k]? := fun k => by
        rw [Nat.add_one_mul j, List.getElem?_append_right (by omega), hlen1]
        congr 1
        omega
      refine ⟨(hskip 0).trans hone, fun x hx => ?_⟩
      obtain ⟨d, hd, hpixel⟩ := hrow' x hx
      refine ⟨d, by rwa [show y + (j + 1) = y + 1 + j by omega], fun c hc => ?_⟩
      rw [Nat.add_assoc, Nat.add_assoc, hskip, ← Nat.add_assoc, ← Nat.add_assoc, hpixel c hc]

/-- A memory is a list: from some address on it holds no value. -/
theorem exists_hole {w : Nat} (m : Cells w) : ∃ a, ∀ b ≥ a, memRead m b = none := by
  induction m with
  | nil => exact ⟨0, fun b _ => memRead_nil b⟩
  | cons c m ih =>
    obtain ⟨c, v⟩ := c
    obtain ⟨a, ha⟩ := ih
    refine ⟨max a (c + 1), fun b hb => ?_⟩
    rw [memRead_cons, if_neg (by omega)]
    exact ha b (by omega)

/-- The first hole of an FB that holds an image is not in the image. -/
theorem exists_firstHole {s : State} (h : FrameWritten s) : ∃ a ≥ area s, FirstHole s a := by
  obtain ⟨n, hn⟩ := exists_hole s.fb
  have hhole : ∃ a, memRead s.fb a = none := ⟨n, hn n le_rfl⟩
  have hfirst : FirstHole s (Nat.find hhole) :=
    ⟨Nat.find_spec hhole, fun b hb => Option.ne_none_iff_isSome.1 (Nat.find_min hhole hb)⟩
  refine ⟨_, Nat.le_of_not_lt fun hlt => ?_, hfirst⟩
  simpa [hfirst.1] using h _ hlt

/-- Rows before the hole are there. -/
theorem FirstHole.encodeRows_before {s : State} {a n y : Nat} (h : FirstHole s a) (hle : (y + n) * s.width.toNat ≤ a) :
    ∃ bytes, encodeRows s n y = .ok bytes := by
  induction n generalizing y with
  | zero => exact ⟨[], rfl⟩
  | succ n ih =>
    have hrow : y * s.width.toNat + 0 + s.width.toNat ≤ a :=
      calc y * s.width.toNat + 0 + s.width.toNat = (y + 1) * s.width.toNat := (Nat.add_one_mul _ _).symm
        _ ≤ (y + (n + 1)) * s.width.toNat := Nat.mul_le_mul_right _ (by omega)
        _ ≤ a := hle
    obtain ⟨row, hrow⟩ := h.encodeRow_before hrow
    obtain ⟨rest, hrest⟩ := ih (y := y + 1) (by rwa [Nat.add_right_comm])
    exact ⟨_, by rw [encodeRows, hrow, hrest]; rfl⟩

theorem memRead_memStorePrefix_of_getElem? {w : Nat} {vs : List (BitVec w)} {a : Nat} {v : BitVec w} (h : vs[a]? = some v)
    (m : Cells w) : memRead (memStorePrefix vs m) a = some v := by
  obtain ⟨ha, rfl⟩ := List.getElem?_eq_some_iff.1 h
  rw [memRead_memStorePrefix, dif_pos ha]

/-- `OUT` holds the forward-filtered stream of the image in FB: for each row the byte 1, then for each pixel the four lanes of
the pixel less its left neighbour (44_commands.md R226, 30_encoding.md R107). -/
def HoldsStream (s : State) (m : Cells 8) : Prop :=
  ∀ y < s.height.toNat, memRead m (y * (1 + 4 * s.width.toNat)) = some 1 ∧
    ∀ x < s.width.toNat, ∃ p l, memRead s.fb (y * s.width.toNat + x) = some p ∧
      (if x = 0 then l = 0 else memRead s.fb (y * s.width.toNat + x - 1) = some l) ∧
      ∀ c < 4, memRead m (y * (1 + 4 * s.width.toNat) + 1 + 4 * x + c) = some (lane (pauSub p l) c)

theorem holdsStream_of_encodeRows {s : State} {bytes : List Byte} (h : encodeRows (beginEncode s) s.height.toNat 0 = .ok bytes)
    (m : Cells 8) : HoldsStream s (memStorePrefix bytes m) := by
  intro y hy
  obtain ⟨-, hrows⟩ := encodeRows_ok h
  obtain ⟨hone, hpixels⟩ := hrows y hy
  refine ⟨memRead_memStorePrefix_of_getElem? hone m, fun x hx => ?_⟩
  obtain ⟨d, hd, hbytes⟩ := hpixels x hx
  rw [Nat.zero_add] at hd
  obtain ⟨p, l, hp, hl, rfl⟩ := filteredSource_ok hd
  exact ⟨p, l, hp, hl, fun c hc => memRead_memStorePrefix_of_getElem? (hbytes c hc) m⟩

/-- Settles O34: on a written image the rows are encoded, and OUT holds their bytes from address 0 on. -/
theorem encsubWritesFilteredStream : Obligations.EncsubWritesFilteredStream := by
  unfold Obligations.EncsubWritesFilteredStream
  intro s hidle hw hh hframe hfb hout w h
  obtain ⟨a, ha, hhole⟩ := exists_firstHole (s := beginEncode s) hframe
  obtain ⟨bytes, hbytes⟩ := hhole.encodeRows_before (y := 0) (n := s.height.toNat)
    (by rw [Nat.zero_add, Nat.mul_comm]; exact ha)
  obtain ⟨hlen, -⟩ := encodeRows_ok hbytes
  refine ⟨_, execCEncsub_of_ok hidle (not_or.2 ⟨hw, hh⟩) ⟨hfb, hout⟩ hbytes, ?_, holdsStream_of_encodeRows hbytes s.out,
    fun b hb => ?_⟩
  · rw [hlen]
    rfl
  · rw [finish_out, memRead_memStorePrefix, dif_neg (by rw [hlen]; exact hb.not_gt)]

end Sys2Proof.Machine
end

section
/-! PROOFS. The record from what it reads (42_scanline_reconstructor.md): what a pixel step, a record step and the fetch come to
where each of their reads finds its value. -/

namespace Sys2Proof.Machine

/-! ### What a pixel step comes to, by what it reads -/

theorem storePixel_of_fits (r : Pixel) {s : State} (h : fits s.params.fbCapacity (lin s s.px.toNat s.py.toNat + 1) = true) :
    storePixel r s = .go { s with
      latches := { s.latches with r := r }, fb := memWrite (lin s s.px.toNat s.py.toNat) r s.fb } := by
  have hstore : storeFb { s with latches := { s.latches with r := r } } (lin s s.px.toNat s.py.toNat) r = .ok _ :=
    storeFb_eq_ok.2 ⟨h, rfl⟩
  rw [storePixel, hstore]

/-- The loads of a pixel step where each of them finds its value (42_scanline_reconstructor.md R162). -/
theorem loadLatches_of_ok {s : State} {x y : Nat} {v a b c : Pixel} (hv : composePixel s x = .ok v)
    (ha : neighbour s (0 < x) (x - 1) y = .ok a) (hb : neighbour s (0 < y) x (y - 1) = .ok b)
    (hc : neighbour s (0 < x && 0 < y) (x - 1) (y - 1) = .ok c) : loadLatches s x y = .ok ⟨v, a, b, c, s.latches.r⟩ := by
  rw [loadLatches, hv, ha, hb, hc]
  rfl

/-- The pixel step of the non-indexed colour types, once its latches are loaded (42_scanline_reconstructor.md R163, R169). -/
theorem pixelStep_of_latches {s : State} {l : Latches} (f : Filter) (hindexed : ctIndexed s.ctype = false)
    (hl : loadLatches s s.px.toNat s.py.toNat = .ok l)
    (hfits : fits s.params.fbCapacity (lin s s.px.toNat s.py.toNat + 1) = true) :
    pixelStep f s = .go { s with
      latches := { l with r := forceAlpha s.ctype (reconstruct f l) }
      fb := memWrite (lin s s.px.toNat s.py.toNat) (forceAlpha s.ctype (reconstruct f l)) s.fb } := by
  simp only [pixelStep, hindexed, Bool.false_eq_true, if_false, filteredPixel, hl]
  exact storePixel_of_fits _ (s := { s with latches := l }) hfits

/-- The indexed pixel step at an index that PAL has (42_scanline_reconstructor.md R170). -/
theorem pixelStep_of_entry {s : State} {i : Byte} {e : PalEntry} (f : Filter) (hindexed : ctIndexed s.ctype = true)
    (hi : extractSample s (s.cur + 1) s.depth.toNat s.px.toNat = .ok i) (hlen : i.toNat < s.palLen.toNat)
    (he : memRead s.pal i.toNat = some e)
    (hfits : fits s.params.fbCapacity (lin s s.px.toNat s.py.toNat + 1) = true) :
    pixelStep f s = .go { s with
      latches := { s.latches with v := palettePixel e, r := palettePixel e }
      fb := memWrite (lin s s.px.toNat s.py.toNat) (palettePixel e) s.fb } := by
  simp only [pixelStep, hindexed, if_true, indexedPixel, lookupPixel_of_entry hi hlen he]
  exact storePixel_of_fits _ (s := loadV (palettePixel e) s) hfits

/-- The indexed pixel step at an index that PAL does not have (60_exceptions.md R251). -/
theorem pixelStep_of_palLen_le {s : State} {i : Byte} (f : Filter) (hindexed : ctIndexed s.ctype = true)
    (hi : extractSample s (s.cur + 1) s.depth.toNat s.px.toNat = .ok i) (hlen : s.palLen.toNat ≤ i.toNat) :
    pixelStep f s = .ended (takeFault .decode .palidx (i.setWidth 32) s) := by
  simp only [pixelStep, hindexed, if_true, indexedPixel, lookupPixel_of_palLen_le hi hlen, BitVec.ofNat_toNat,
    BitVec.setWidth_eq]
  rfl

/-! ### What a record comes to, by what its fetch reads -/

theorem recordStep_of_short {f : Filter} {s : State} (hready : recordReady s = true)
    (hshort : s.inLen < s.cur + 1 + rowBytes s) :
    recordStep f s = .next (takeFault .decode .trunc 0 { s with px := 0, ft := filterCode f }) :=
  (if_pos hready).trans (if_pos hshort)

theorem recordStep_of_row {f : Filter} {s : State} (hready : recordReady s = true)
    (hrow : s.cur + 1 + rowBytes s ≤ s.inLen) :
    recordStep f s = recordOutcome (rowBytes s) (pixelLoop f s.pw.toNat 0 (recordStart f s)) := by
  rw [← recordWarning_eq_recordStart]
  exact (if_pos hready).trans (if_neg hrow.not_gt)

theorem fetch_of_reserved {s : State} {b : Byte} (hcur : s.cur < s.inLen) (hb : memRead s.input s.cur = some b)
    (h : 4 < b.toNat) :
    fetch s = .faulted (takeFault .decode .filter (b.setWidth 32) { s with px := 0, ft := b }) := by
  simp [fetch, Nat.not_le.2 hcur, readIn_eq_ok.2 hb, decode_record_of_reserved h]

theorem stepRecord_of_filterCode {f : Filter} {s : State} (hcur : s.cur < s.inLen)
    (hb : memRead s.input s.cur = some (filterCode f)) :
    stepRecord s = afterRecord (recordStep f { s with px := 0, ft := filterCode f }) := by
  rw [stepRecord, fetch_of_decode hcur hb (decode_filterCode f), ← exec_filterInstr]

theorem afterRecord_of_not_run {s : State} (h : s.run ≠ .run) : afterRecord (.next s) = .next s :=
  congrArg _ (if_neg h)

end Sys2Proof.Machine
end

section
/-! PROOFS. Noninterference of C.DECODE (44_commands.md R224): two machines that agree on a call take its records in lock
step, whatever else they hold. -/

namespace Sys2Proof.Machine

/-! ### Two machines at the same point of a decode -/

/-- `s` and `u` are at the same point of the same decode: all that a decode reads is the same in both, of PAL and IN below
their lengths and of FB in the image. The rest of the memories, the latches, FT and the model's own fields may differ. -/
structure SamePoint (s u : State) : Prop where
  eq : u = { s with
    latches := u.latches, ft := u.ft, outLen := u.outLen, pal := u.pal, input := u.input, fb := u.fb, out := u.out
    trace := u.trace, result := u.result, hostData := u.hostData, seed := u.seed }
  pal : ∀ i < s.palLen.toNat, memRead s.pal i = memRead u.pal i
  input : ∀ a < s.inLen, memRead s.input a = memRead u.input a
  fb : ∀ a < area s, memRead s.fb a = memRead u.fb a

/-- A decode has ended alike in `s` and `u`: in DONE with the same image, CUR and WARN, or in FAULT with the same record at the
same position (44_commands.md R224). -/
inductive SameEnd (s u : State) : Prop where
  | done (hs : s.run = .done) (hu : u.run = .done) (cur : s.cur = u.cur) (warn : s.warn = u.warn)
      (fb : ∀ a < area s, memRead s.fb a = memRead u.fb a)
  | fault (hs : s.run = .fault) (hu : u.run = .fault) (err : s.err = u.err) (errInfo : s.errInfo = u.errInfo)
      (errCur : s.errCur = u.errCur) (pass : s.pass = u.pass) (py : s.py = u.py) (px : s.px = u.px)

/-- The decode goes on at the same point, or has ended alike. -/
def SameProgress (s u : State) : Prop := s.run = .run ∧ SamePoint s u ∨ SameEnd s u

/-- The pixel loop goes on at the same point, or has ended the decode alike. -/
inductive SameFlow : Flow → Flow → Prop where
  | go {s u : State} (h : SamePoint s u) : SameFlow (.go s) (.go u)
  | ended {s u : State} (h : SameEnd s u) : SameFlow (.ended s) (.ended u)

section SamePoint

variable {s u : State} (h : SamePoint s u)
include h

theorem SamePoint.run : u.run = s.run := by rw [h.eq]

theorem SamePoint.params : u.params = s.params := by rw [h.eq]

theorem SamePoint.cur : u.cur = s.cur := by rw [h.eq]

theorem SamePoint.pw : u.pw = s.pw := by rw [h.eq]

theorem SamePoint.ph : u.ph = s.ph := by rw [h.eq]

theorem SamePoint.py : u.py = s.py := by rw [h.eq]

theorem SamePoint.px : u.px = s.px := by rw [h.eq]

theorem SamePoint.depth : u.depth = s.depth := by rw [h.eq]

theorem SamePoint.ctype : u.ctype = s.ctype := by rw [h.eq]

theorem SamePoint.palLen : u.palLen = s.palLen := by rw [h.eq]

theorem SamePoint.inLen : u.inLen = s.inLen := by rw [h.eq]

theorem SamePoint.lin (x y : Nat) : lin u x y = lin s x y := by rw [h.eq]; rfl

theorem SamePoint.lin_px : Machine.lin u u.px.toNat u.py.toNat = Machine.lin s s.px.toNat s.py.toNat := by
  rw [h.eq]; rfl

theorem SamePoint.startPixel (x : BitVec 32) : SamePoint { s with px := x } { u with px := x } :=
  ⟨by rw [h.eq], h.pal, h.input, h.fb⟩

theorem SamePoint.startRecord (b b' : Byte) : SamePoint { s with px := 0, ft := b } { u with px := 0, ft := b' } :=
  ⟨by rw [h.eq], h.pal, h.input, h.fb⟩

theorem SamePoint.recordStart (f : Filter) : SamePoint (recordStart f s) (recordStart f u) :=
  ⟨by rw [h.eq]; rfl, h.pal, h.input, h.fb⟩

theorem SamePoint.endRecord (rb : Nat) : SamePoint (endRecord rb s) (endRecord rb u) :=
  ⟨by rw [h.eq]; rfl, h.pal, h.input, h.fb⟩

/-- The same store keeps two machines at the same point, whatever it leaves in the latches. -/
theorem SamePoint.store (l m : Latches) (a : Nat) (p : Pixel) :
    SamePoint { s with latches := l, fb := memWrite a p s.fb } { u with latches := m, fb := memWrite a p u.fb } := by
  refine ⟨by rw [h.eq], h.pal, h.input, fun b hb => ?_⟩
  simp only [memRead_memWrite, h.fb b hb]

/-- A fault of the decode is the same fault in both (60_exceptions.md R250). -/
theorem SamePoint.takeFault (e : Exc) (info : BitVec 32) :
    SameEnd (takeFault .decode e info s) (takeFault .decode e info u) := by
  rw [h.eq]
  exact .fault rfl rfl rfl rfl rfl rfl rfl rfl

/-- A completed decode is the same in both: what has become unspecified is not compared (10_state.md R23). -/
theorem SamePoint.finish : SameEnd (finish s) (finish u) := by
  have hcur : s.cur = u.cur := by rw [h.eq]
  have hwarn : s.warn = u.warn := by rw [h.eq]
  exact .done rfl rfl hcur hwarn h.fb

/-! ### The sequencer -/

theorem SamePoint.setDims (k : Nat) (q : BitVec 3) :
    SamePoint (setDims k { s with pass := q }) (setDims k { u with pass := q }) :=
  ⟨by rw [h.eq]; rfl, h.pal, h.input, h.fb⟩

theorem SamePoint.firstRow : SamePoint { s with py := 0 } { u with py := 0 } :=
  ⟨by rw [h.eq], h.pal, h.input, h.fb⟩

theorem SamePoint.nextRow : SamePoint { s with py := s.py + 1 } { u with py := u.py + 1 } :=
  ⟨by rw [h.eq], h.pal, h.input, h.fb⟩

end SamePoint

theorem SamePoint.enterPass {s u : State} (h : SamePoint s u) (hrun : s.run = .run) (ks : List Nat) :
    SameProgress (enterPass s ks) (enterPass u ks) := by
  induction ks generalizing s u with
  | nil => exact .inr h.finish
  | cons k ks ih =>
    have hdims := h.setDims k (BitVec.ofNat 3 k)
    have hpw : (Machine.setDims k { u with pass := BitVec.ofNat 3 k }).pw =
        (Machine.setDims k { s with pass := BitVec.ofNat 3 k }).pw := by rw [hdims.eq]
    have hph : (Machine.setDims k { u with pass := BitVec.ofNat 3 k }).ph =
        (Machine.setDims k { s with pass := BitVec.ofNat 3 k }).ph := by rw [hdims.eq]
    unfold Machine.enterPass
    dsimp only
    split
    case isTrue hempty =>
      rw [if_pos (by rwa [hpw, hph])]
      exact ih hdims hrun
    case isFalse hfull =>
      rw [if_neg (by rwa [hpw, hph])]
      exact .inl ⟨hrun, hdims.firstRow⟩

theorem SamePoint.nextRecord {s u : State} (h : SamePoint s u) (hrun : s.run = .run) :
    SameProgress (nextRecord s) (nextRecord u) := by
  have hafter : passesAfter u.ilace u.pass.toNat = passesAfter s.ilace s.pass.toNat := by rw [h.eq]
  unfold Machine.nextRecord
  split
  case isTrue hrow =>
    rw [if_pos (by rwa [h.py, h.ph])]
    exact .inl ⟨hrun, h.nextRow⟩
  case isFalse hlast =>
    rw [if_neg (by rwa [h.py, h.ph]), hafter]
    exact h.enterPass hrun _

/-! ### The pixel steps of a record -/

/-- What a decode of `s` needs of its row, a decode of `u` at the same point has. -/
theorem SamePoint.rowReady {s u : State} (h : SamePoint s u) (hs : RowReady s) : RowReady u := by
  have hframe : FrameWritten u := fun a ha => by
    have ha : a < area s := by rw [h.eq] at ha; exact ha
    rw [← h.fb a ha]; exact hs.frame a ha
  have hstream : StreamWritten u := fun a ha => by
    have ha : a < s.inLen := by rw [h.eq] at ha; exact ha
    rw [← h.input a ha]; exact hs.stream a ha
  have hpalette : PaletteWritten u := fun hi i hlt => by
    have hi : ctIndexed s.ctype = true := by rw [h.eq] at hi; exact hi
    have hlt : i < s.palLen.toNat := by rw [h.eq] at hlt; exact hlt
    rw [← h.pal i hlt]; exact hs.palette hi i hlt
  refine ⟨?_, ?_, hframe, ?_, ?_, hstream, hpalette⟩ <;> rw [h.eq]
  · exact hs.table
  · exact hs.config
  · exact hs.position
  · exact hs.row

/-- A sample of the row is the same in both (41_bit_depth_unpacker.md R140). -/
theorem SamePoint.extractSample {s u : State} (h : SamePoint s u) (hs : RowReady s) {i : Nat}
    (hi : i < s.pw.toNat * samplesPerPixel s.ctype) :
    extractSample u (u.cur + 1) u.depth.toNat i = extractSample s (s.cur + 1) s.depth.toNat i := by
  have haddr : sampleAddr (s.cur + 1) s.depth.toNat i < s.inLen := (sampleAddr_lt hs.depth_mem hi).trans_le hs.row
  rw [h.cur, h.depth, Machine.extractSample, Machine.extractSample, readIn, readIn, h.input _ haddr]

theorem SamePoint.composePixel {s u : State} (h : SamePoint s u) (hs : RowReady s) {x : Nat}
    (hindexed : ctIndexed s.ctype = false) (hx : x < s.pw.toNat) : composePixel u x = composePixel s x := by
  have hchannel : ∀ c < samplesPerPixel s.ctype, channelSample u x c = channelSample s x c := fun c hc => by
    have hi : x * samplesPerPixel s.ctype + c < s.pw.toNat * samplesPerPixel s.ctype :=
      calc x * samplesPerPixel s.ctype + c < (x + 1) * samplesPerPixel s.ctype := by rw [Nat.add_one_mul]; omega
        _ ≤ s.pw.toNat * samplesPerPixel s.ctype := Nat.mul_le_mul_right _ hx
    rw [channelSample, channelSample, h.ctype, h.extractSample hs hi, h.params, h.depth]
  choose! w hw using fun c hc => hs.exists_channel (c := c) hx hc
  rw [composePixel_eq_composeWord hindexed hw, composePixel_eq_composeWord (h.ctype ▸ hindexed) fun c hc => ?_, h.ctype]
  rw [h.ctype] at hc
  rw [hchannel c hc, hw c hc]

theorem SamePoint.neighbour {s u : State} (h : SamePoint s u) (hs : RowReady s) {x y : Nat} (hx : x < s.pw.toNat)
    (hy : y < s.ph.toNat) (present : Bool) : neighbour u present x y = neighbour s present x y := by
  rw [Machine.neighbour, Machine.neighbour, h.lin, readFb, readFb, h.fb _ (hs.lin_lt hx hy)]

/-- What a filter makes of the latches does not depend on `x[R]` (42_scanline_reconstructor.md R161). -/
theorem reconstruct_setR (f : Filter) (l : Latches) (r : Pixel) : reconstruct f { l with r := r } = reconstruct f l := by
  cases f <;> rfl

/-- The loads of a pixel step are the same in both, but for `x[R]`, which they keep. -/
theorem SamePoint.loadLatches {s u : State} (h : SamePoint s u) (hs : RowReady s) {x y : Nat} {l : Latches}
    (hindexed : ctIndexed s.ctype = false) (hx : x < s.pw.toNat) (hy : y < s.ph.toNat)
    (hl : loadLatches s x y = .ok l) : loadLatches u x y = .ok { l with r := u.latches.r } := by
  obtain ⟨hv, ha, hb, hc⟩ := loadLatches_ok hl
  have hx' : x - 1 < s.pw.toNat := Nat.sub_lt_of_lt hx
  have hy' : y - 1 < s.ph.toNat := Nat.sub_lt_of_lt hy
  exact loadLatches_of_ok ((h.composePixel hs hindexed hx).trans hv) ((h.neighbour hs hx' hy _).trans ha)
    ((h.neighbour hs hx hy' _).trans hb) ((h.neighbour hs hx' hy' _).trans hc)

theorem SamePoint.pixelStep {f : Filter} {s u : State} (h : SamePoint s u) (hs : RowReady s) (hx : s.px.toNat < s.pw.toNat) :
    SameFlow (pixelStep f s) (pixelStep f u) := by
  obtain ⟨-, -, -, -, hy⟩ := hs.position
  have hu := h.rowReady hs
  have hfits : fits s.params.fbCapacity (Machine.lin s s.px.toNat s.py.toNat + 1) = true :=
    fits_of_le (hs.lin_lt hx hy) hs.fits_area
  have hfits' : fits u.params.fbCapacity (Machine.lin u u.px.toNat u.py.toNat + 1) = true := by
    rw [h.lin_px, h.eq]; exact hfits
  cases hindexed : ctIndexed s.ctype
  · obtain ⟨l, hl⟩ := hs.exists_latches hindexed hx hy
    have hl' : Machine.loadLatches u u.px.toNat u.py.toNat = .ok { l with r := u.latches.r } := by
      rw [h.px, h.py]; exact h.loadLatches hs hindexed hx hy hl
    have hpixel : forceAlpha u.ctype (reconstruct f { l with r := u.latches.r }) =
        forceAlpha s.ctype (reconstruct f l) := by
      rw [h.ctype, reconstruct_setR f l u.latches.r]
    rw [pixelStep_of_latches f hindexed hl hfits, pixelStep_of_latches f (h.ctype ▸ hindexed) hl' hfits', h.lin_px, hpixel]
    exact .go (h.store _ _ _ _)
  · have hspp : samplesPerPixel s.ctype = 1 := if_pos hindexed
    have hi' : s.px.toNat < s.pw.toNat * samplesPerPixel s.ctype := by rwa [hspp, Nat.mul_one]
    obtain ⟨i, hi⟩ := hs.exists_sample hi'
    have hui : Machine.extractSample u (u.cur + 1) u.depth.toNat u.px.toNat = .ok i := by
      rw [h.px, h.extractSample hs hi', hi]
    rcases Nat.lt_or_ge i.toNat s.palLen.toNat with hlen | hlen
    · obtain ⟨e, he⟩ := Option.isSome_iff_exists.1 (hs.palette hindexed i.toNat hlen)
      rw [pixelStep_of_entry f hindexed hi hlen he hfits, pixelStep_of_entry f (h.ctype ▸ hindexed) hui (h.palLen ▸ hlen)
        ((h.pal _ hlen).symm.trans he) hfits', h.lin_px]
      exact .go (h.store _ _ _ _)
    · rw [pixelStep_of_palLen_le f hindexed hi hlen, pixelStep_of_palLen_le f (h.ctype ▸ hindexed) hui (h.palLen ▸ hlen)]
      exact .ended (h.takeFault _ _)

theorem SamePoint.pixelLoop {f : Filter} {n x : Nat} {s u : State} (h : SamePoint s u) (hs : RowReady s)
    (hx : x + n ≤ s.pw.toNat) : SameFlow (pixelLoop f n x s) (pixelLoop f n x u) := by
  induction n generalizing x s u with
  | zero => exact .go h
  | succ n ih =>
    have hpx : (BitVec.ofNat 32 x).toNat = x := by
      have := s.pw.isLt
      rw [BitVec.toNat_ofNat, Nat.mod_eq_of_lt (by omega)]
    have hat : RowReady { s with px := BitVec.ofNat 32 x } :=
      ⟨hs.table, hs.config, hs.frame, hs.position, hs.row, hs.stream, hs.palette⟩
    have hstep := (h.startPixel (BitVec.ofNat 32 x)).pixelStep (f := f) hat (by dsimp only; omega)
    unfold Machine.pixelLoop
    generalize hr : Machine.pixelStep f { s with px := BitVec.ofNat 32 x } = r at hstep
    generalize Machine.pixelStep f { u with px := BitVec.ofNat 32 x } = r' at hstep
    cases hstep with
    | go hgo =>
      obtain ⟨-, p, hp⟩ := pixelStep_go hr
      have hpw := congrArg State.pw hp
      exact ih hgo (hat.pixelStep hr) (by rw [hpw]; dsimp only; omega)
    | ended hend => exact .ended hend

/-! ### A record -/

theorem Decoding.rowReady {s : State} (h : Decoding s) (hrow : s.cur + 1 + rowBytes s ≤ s.inLen) : RowReady s := by
  obtain ⟨hconfig, hframe, hposition⟩ := h.running.2 h.run
  exact ⟨h.running.1, hconfig, hframe, hposition, hrow, h.stream, h.palette⟩

theorem Decoding.recordReady {s : State} (h : Decoding s) : recordReady s = true := by
  obtain ⟨hconfig, -, hposition⟩ := h.running.2 h.run
  exact recordReady_of_position hconfig hposition

theorem SamePoint.recordStep {s u : State} (h : SamePoint s u) (hs : Decoding s) (f : Filter) :
    ∃ t v, recordStep f s = .next t ∧ recordStep f u = .next v ∧ SameProgress t v := by
  have hready : Machine.recordReady u = true := by rw [h.eq]; exact hs.recordReady
  have hrb : rowBytes u = rowBytes s := by rw [h.eq]; rfl
  rcases Nat.lt_or_ge s.inLen (s.cur + 1 + rowBytes s) with hshort | hrow
  · exact ⟨_, _, recordStep_of_short hs.recordReady hshort, recordStep_of_short hready (by rwa [h.cur, hrb, h.inLen]),
      .inr ((h.startRecord _ _).takeFault _ _)⟩
  · have hstart : RowReady (Machine.recordStart f s) := by
      have hr := hs.rowReady hrow
      exact ⟨hr.table, hr.config, hr.frame, hr.position, hr.row, hr.stream, hr.palette⟩
    have hloop := (h.recordStart f).pixelLoop (f := f) (n := s.pw.toNat) (x := 0) hstart (by simp [Machine.recordStart])
    rw [recordStep_of_row hs.recordReady hrow, recordStep_of_row hready (by rwa [h.cur, hrb, h.inLen]), hrb, h.pw]
    generalize hr : Machine.pixelLoop f s.pw.toNat 0 (Machine.recordStart f s) = r at hloop
    generalize Machine.pixelLoop f s.pw.toNat 0 (Machine.recordStart f u) = r' at hloop
    cases hloop with
    | @go t v hgo =>
      have hrun : t.run = .run := by
        rw [(recordLoop_frame hr le_rfl).1]; exact hs.run
      exact ⟨_, _, rfl, rfl, .inl ⟨hrun, hgo.endRecord _⟩⟩
    | ended hend => exact ⟨_, _, rfl, rfl, .inr hend⟩

theorem SameEnd.ne_run {s u : State} (h : SameEnd s u) : s.run ≠ .run ∧ u.run ≠ .run := by
  cases h with
  | done hs hu => simp [hs, hu]
  | fault hs hu => simp [hs, hu]

/-- The move on to the next record keeps two decodes together. -/
theorem SameProgress.afterRecord {s u : State} (h : SameProgress s u) :
    ∃ t v, afterRecord (.next s) = .next t ∧ afterRecord (.next u) = .next v ∧ SameProgress t v := by
  rcases h with ⟨hrun, h⟩ | hend
  · exact ⟨_, _, afterRecord_of_run hrun, afterRecord_of_run (h.run.trans hrun), h.nextRecord hrun⟩
  · obtain ⟨hs, hu⟩ := hend.ne_run
    exact ⟨_, _, afterRecord_of_not_run hs, afterRecord_of_not_run hu, .inr hend⟩

theorem SamePoint.stepRecord {s u : State} (h : SamePoint s u) (hs : Decoding s) :
    ∃ t v, stepRecord s = .next t ∧ stepRecord u = .next v ∧ SameProgress t v := by
  rcases Nat.lt_or_ge s.cur s.inLen with hlt | hle
  · have hlt' : u.cur < u.inLen := by rwa [h.cur, h.inLen]
    obtain ⟨b, hb⟩ := Option.isSome_iff_exists.1 (hs.stream _ hlt)
    have hb' : memRead u.input u.cur = some b := by rw [h.cur, ← h.input _ hlt, hb]
    rcases Nat.lt_or_ge 4 b.toNat with hreserved | hfilter
    · exact ⟨_, _, by rw [Machine.stepRecord, fetch_of_reserved hlt hb hreserved],
        by rw [Machine.stepRecord, fetch_of_reserved hlt' hb' hreserved], .inr ((h.startRecord b b).takeFault _ _)⟩
    · obtain ⟨f, rfl⟩ := exists_filterCode hfilter
      have hstart : Decoding { s with px := 0, ft := filterCode f } :=
        ⟨hs.run, hs.reset, hs.running, hs.stream, hs.palette⟩
      obtain ⟨t, v, ht, hv, hsame⟩ := (h.startRecord (filterCode f) (filterCode f)).recordStep hstart f
      rw [stepRecord_of_filterCode hlt hb, stepRecord_of_filterCode hlt' hb', ht, hv]
      exact hsame.afterRecord
  · have hfree : SamePoint (freeFilterType { s with px := 0 }) (freeFilterType { u with px := 0 }) :=
      ⟨by rw [h.eq]; rfl, h.pal, h.input, h.fb⟩
    exact ⟨_, _, by rw [Machine.stepRecord, fetch_of_inLen_le hle],
      by rw [Machine.stepRecord, fetch_of_inLen_le (by rwa [h.cur, h.inLen])], .inr (hfree.takeFault _ _)⟩

/-! ### The whole decode -/

/-- Two runs of the same call `c` are together: nothing but records is to come, and both are at the same point of a decode, or
have ended alike. -/
structure Together (c s u : State) : Prop where
  reset : s.resetIn = none ∧ u.resetIn = none
  host : s.host = [] ∧ u.host = []
  area : area s = area c
  decode : Decoding s ∧ SamePoint s u ∨ SameEnd s u

theorem Together.step {c s u : State} (h : Together c s u) :
    ∃ t v, step s = .next t ∧ step u = .next v ∧ Together c t v := by
  obtain ⟨hreset, hreset'⟩ := h.reset
  obtain ⟨hhost, hhost'⟩ := h.host
  rcases h.decode with ⟨hs, hsame⟩ | hend
  · have hrun' : u.run = .run := hsame.run.trans hs.run
    obtain ⟨t, v, ht, hv, hprogress⟩ := hsame.stepRecord hs
    have hst : Machine.step s = .next t := (step_of_run hreset hs.run).trans ht
    have heq := stepRecord_eq ht hs.run
    have heq' := stepRecord_eq hv hrun'
    have hreset₁ : t.resetIn = none := by rw [heq]; exact hreset
    have hreset₂ : v.resetIn = none := by rw [heq']; exact hreset'
    have hhost₁ : t.host = [] := by rw [heq]; exact hhost
    have hhost₂ : v.host = [] := by rw [heq']; exact hhost'
    have harea : Machine.area t = Machine.area c := by rw [heq]; exact h.area
    refine ⟨t, v, hst, (step_of_run hreset' hrun').trans hv, ⟨hreset₁, hreset₂⟩, ⟨hhost₁, hhost₂⟩, harea, ?_⟩
    refine hprogress.imp_left fun ⟨hrun, hpoint⟩ => ⟨?_, hpoint⟩
    obtain ⟨t', ht', hnext⟩ := hs.step
    obtain rfl : t' = t := Host.Outcome.next.inj (ht'.symm.trans hst)
    rcases hnext with hended | ⟨hdecoding, -⟩
    · simp [hrun] at hended
    · exact hdecoding
  · obtain ⟨hs, hu⟩ := hend.ne_run
    exact ⟨s, u, idleMachineStaysPut s hreset hs hhost, idleMachineStaysPut u hreset' hu hhost', h⟩

theorem Together.stepN {c s u : State} (h : Together c s u) (n : Nat) :
    ∃ t v, stepN n s = .next t ∧ stepN n u = .next v ∧ Together c t v := by
  induction n generalizing s u with
  | zero => exact ⟨s, u, rfl, rfl, h⟩
  | succ n ih =>
    obtain ⟨t, v, ht, hv, hnext⟩ := h.step
    rw [stepN_succ_of_next ht, stepN_succ_of_next hv]
    exact ih hnext

/-- Two machines agree on a call of C.DECODE: the parameters, the configuration, and PAL and IN below their lengths
(44_commands.md R224); nothing but the call's records is to come in either. -/
structure SameCall (s u : State) : Prop where
  params : s.params = u.params
  width : s.width = u.width
  height : s.height = u.height
  depth : s.depth = u.depth
  ctype : s.ctype = u.ctype
  ilace : s.ilace = u.ilace
  palLen : s.palLen = u.palLen
  inLen : s.inLen = u.inLen
  pal : ∀ i < s.palLen.toNat, memRead s.pal i = memRead u.pal i
  input : ∀ a < s.inLen, memRead s.input a = memRead u.input a
  reset : s.resetIn = none ∧ u.resetIn = none
  host : s.host = [] ∧ u.host = []

/-- The free values that PW and PH hold at the start of the sequencer do not reach a pass (10_state.md R23,
43_interlace_sequencer.md R202). -/
theorem enterPass_allPasses_setDims (s : State) (m n : BitVec 32) (ilace : Byte) :
    enterPass { s with pw := m, ph := n } (allPasses ilace) = enterPass s (allPasses ilace) := by
  unfold allPasses
  split <;> rfl

/-- The state in which the sequencer starts, but for the free values in PW and PH (44_commands.md R222). -/
def filled (s : State) : State := { zeroFill (beginDecode s) with pw := 0, ph := 0 }

theorem enterPass_filled (s : State) (ilace : Byte) :
    enterPass (filled s) (allPasses ilace) = enterPass (zeroFill (beginDecode s)) (allPasses ilace) :=
  enterPass_allPasses_setDims _ _ _ _

/-- After the zero fill two machines that agree on the call are at the same point. -/
theorem SameCall.filled {s u : State} (h : SameCall s u) : SamePoint (filled s) (filled u) := by
  have harea : area (beginDecode u) = area (beginDecode s) := by
    simp only [area, beginDecode_width, beginDecode_height, h.width, h.height]
  refine ⟨?_, h.pal, h.input, fun a ha => ?_⟩
  · simp only [Machine.filled, zeroFill, beginDecode, freeDims, h.params, h.width, h.height, h.depth, h.ctype, h.ilace,
      h.palLen, h.inLen, h.reset, h.host]
  · exact ((memRead_zeroFill (beginDecode s) a).trans (if_pos ha)).trans
      ((memRead_zeroFill (beginDecode u) a).trans (if_pos (harea ▸ ha))).symm

theorem SamePoint.startCheck {s u : State} (h : SamePoint s u) : startCheck u = startCheck s := by
  rw [h.eq]; rfl

theorem Decoding.of_execCDecode {s v : State} (hrun : v.run = .run) (hreset : s.resetIn = none)
    (htable : tableOk s.params.passTable = true) (hstream : StreamWritten s) (hpalette : PaletteWritten s)
    (h : execCDecode s = .next v) : Decoding v := by
  have hrunning := execCDecode_runningOk h htable
  obtain ⟨-, ⟨e, info, -, rfl⟩ | ⟨-, rfl⟩⟩ := execCDecode_next h
  · simp at hrun
  · have heq := (enterPass_frame (zeroFill (beginDecode s)) (allPasses s.ilace)).eq
    refine ⟨hrun, ?_, hrunning, ?_, ?_⟩ <;> rw [heq]
    · exact hreset
    · exact hstream
    · exact hpalette

/-- C.DECODE starts two runs that are together (44_commands.md R222). -/
theorem SameCall.together {s u v w : State} (h : SameCall s u) (htable : tableOk s.params.passTable = true)
    (hstream : StreamWritten s) (hpalette : PaletteWritten s) (hv : execCDecode s = .next v)
    (hw : execCDecode u = .next w) : Together s v w := by
  have hcheck : Machine.startCheck (beginDecode u) = Machine.startCheck (beginDecode s) := h.filled.startCheck
  have hdecoding := fun hrun => Decoding.of_execCDecode hrun h.reset.1 htable hstream hpalette hv
  obtain ⟨-, ⟨e, info, he, rfl⟩ | ⟨hnone, rfl⟩⟩ := execCDecode_next hv
  · obtain ⟨-, ⟨e', info', he', rfl⟩ | ⟨hnone', -⟩⟩ := execCDecode_next hw
    · obtain ⟨rfl, rfl⟩ : e' = e ∧ info' = info := by simpa [he, he'] using hcheck
      exact ⟨by simpa using h.reset, by simpa using h.host, rfl, .inr (.fault rfl rfl rfl rfl rfl rfl rfl rfl)⟩
    · simp [he, hnone'] at hcheck
  · obtain ⟨-, ⟨e', info', he', -⟩ | ⟨-, rfl⟩⟩ := execCDecode_next hw
    · simp [he', hnone] at hcheck
    · have hprogress := h.filled.enterPass rfl (allPasses s.ilace)
      rw [enterPass_filled, enterPass_filled, h.ilace] at hprogress
      have heq := (enterPass_frame (zeroFill (beginDecode s)) (allPasses s.ilace)).eq
      have heq' := (enterPass_frame (zeroFill (beginDecode u)) (allPasses u.ilace)).eq
      refine ⟨⟨?_, ?_⟩, ⟨?_, ?_⟩, ?_, ?_⟩
      · rw [heq]; exact h.reset.1
      · rw [heq']; exact h.reset.2
      · rw [heq]; exact h.host.1
      · rw [heq']; exact h.host.2
      · rw [heq]; rfl
      · rw [h.ilace] at hdecoding ⊢
        exact hprogress.imp_left fun ⟨hrun, hpoint⟩ => ⟨hdecoding hrun, hpoint⟩

/-- Settles O57: C.DECODE starts two runs together, every step keeps them so, and what they then agree on is what the
statement lists. -/
theorem decodeDependsOnCallOnly : Obligations.DecodeDependsOnCallOnly := by
  unfold Obligations.DecodeDependsOnCallOnly
  intro s u v w _ _ hreset hreset' hhost hhost' hparams htable hwidth hheight hdepth hctype hilace hpalLen hinLen hstream
    hpalette hpal hinput hv hw n
  have hcall : SameCall s u := ⟨hparams, hwidth, hheight, hdepth, hctype, hilace, hpalLen, hinLen, hpal, hinput,
    ⟨hreset, hreset'⟩, ⟨hhost, hhost'⟩⟩
  obtain ⟨t, t', ht, ht', htogether⟩ := (hcall.together htable hstream hpalette hv hw).stepN n
  refine ⟨t, t', ht, ht', ?_⟩
  rw [← htogether.area]
  rcases htogether.decode with ⟨hs, hsame⟩ | hend
  · exact ⟨hsame.run.symm, by simp [hs.run], by simp [hs.run]⟩
  · cases hend with
    | done hs hu cur warn fb => exact ⟨hs.trans hu.symm, fun _ => ⟨cur, warn, fb⟩, by simp [hs]⟩
    | fault hs hu err errInfo errCur pass py px =>
      exact ⟨hs.trans hu.symm, by simp [hs], fun _ => ⟨err, errInfo, errCur, pass, py, px⟩⟩

end Sys2Proof.Machine
end

section
/-! PROOFS. C.ENCSUB and back (44_commands.md R227): a decode of the stream that C.ENCSUB writes stores, row by row and left to
right, the pixels of the image the stream was made of. -/

namespace Sys2Proof.Machine

/-! ### The single pass -/

theorem axisCount_identity (n : Nat) : axisCount n 0 1 = n := by
  unfold axisCount ceilDiv
  split <;> omega

/-- The single pass is the whole image (43_interlace_sequencer.md R200). -/
theorem passWidth_zero (t : PassTable) (w : Nat) : passWidth t 0 w = w := axisCount_identity w

theorem passHeight_zero (t : PassTable) (h : Nat) : passHeight t 0 h = h := axisCount_identity h

theorem lin_of_pass_zero {s : State} (h : s.pass = 0) (x y : Nat) : lin s x y = y * s.width.toNat + x := by
  unfold lin linAddr
  rw [h]
  exact congrArg (fun p => p.2 * s.width.toNat + p.1) (xform_zero s.params.passTable x y)

/-- The sequencer enters the single pass of an image that is not empty (43_interlace_sequencer.md R205). -/
theorem enterPass_single {s : State} (hw : s.width ≠ 0) (hh : s.height ≠ 0) :
    enterPass s [0] = { s with pass := 0, pw := s.width, ph := s.height, py := 0 } := by
  have hdims : setDims 0 { s with pass := BitVec.ofNat 3 0 } = { s with pass := 0, pw := s.width, ph := s.height } := by
    simp only [setDims, passWidth_zero, passHeight_zero, BitVec.ofNat_toNat, BitVec.setWidth_eq]
    rfl
  unfold enterPass
  dsimp only
  rw [hdims, if_neg (not_or.2 ⟨hw, hh⟩)]

/-! ### The decode of the stream of an image -/

/-- `u` is a call that decodes the stream of the image in FB of `s`: same size, depth 8, RGBA, not interlaced
(44_commands.md R227). -/
structure ReadsBack (s u : State) : Prop where
  reset : u.resetIn = none
  width : u.width = s.width
  height : u.height = s.height
  depth : u.depth = 8
  ctype : u.ctype = 6
  ilace : u.ilace = 0
  capacity : fits u.params.fbCapacity (area s) = true
  inLen : u.inLen = s.height.toNat * (1 + 4 * s.width.toNat)
  stream : HoldsStream s u.input

/-- Such a decode is about to take the record of row `y`. -/
structure AtRow (s v : State) (y : Nat) : Prop extends ReadsBack s v where
  run : v.run = .run
  pass : v.pass = 0
  pw : v.pw = s.width
  ph : v.ph = s.height
  py : v.py.toNat = y
  cur : v.cur = y * (1 + 4 * s.width.toNat)
  warn : v.warn = 0
  nonempty : 0 < s.width.toNat
  lt_height : y < s.height.toNat

/-- The first `n` pixels of the image of `s` stand in FB of `v`. -/
def Restored (s v : State) (n : Nat) : Prop := ∀ a < n, memRead v.fb a = memRead s.fb a

/-- A stream is made of an image all of whose pixels hold a value. -/
theorem HoldsStream.frameWritten {s : State} {m : Cells 8} (h : HoldsStream s m) : FrameWritten s := by
  intro a ha
  have hx : a % s.width.toNat < s.width.toNat := Nat.mod_lt a (Nat.pos_of_mul_pos_right (Nat.zero_lt_of_lt ha))
  obtain ⟨-, hpixels⟩ := h _ (Nat.div_lt_of_lt_mul ha)
  obtain ⟨p, l, hp, -, -⟩ := hpixels _ hx
  rw [Nat.div_add_mod'] at hp
  exact Option.isSome_iff_exists.2 ⟨p, hp⟩

section AtRow

variable {s v : State} {y : Nat} (h : AtRow s v y)
include h

theorem AtRow.lin (x z : Nat) : lin v x z = z * s.width.toNat + x := by
  rw [lin_of_pass_zero h.pass, h.width]

theorem AtRow.rowBytes : rowBytes v = 4 * s.width.toNat := by
  have hspp : samplesPerPixel v.ctype = 4 := by rw [h.ctype]; rfl
  rw [rowBytes_eq, hspp, h.depth, h.pw]
  show (s.width.toNat * 4 * 8 + 7) / 8 = _
  omega

theorem AtRow.row_le : v.cur + 1 + 4 * s.width.toNat ≤ v.inLen := by
  rw [h.cur, h.inLen, Nat.add_assoc, ← Nat.add_one_mul]
  exact Nat.mul_le_mul_right _ h.lt_height

/-- What a pixel step or the fetch writes does not move the decode to another row. -/
theorem AtRow.midRecord (l : Latches) (px : BitVec 32) (ft : Byte) (m : Cells 32) :
    AtRow s { v with latches := l, px := px, ft := ft, fb := m } y :=
  ⟨⟨h.reset, h.width, h.height, h.depth, h.ctype, h.ilace, h.capacity, h.inLen, h.stream⟩, h.run, h.pass, h.pw, h.ph, h.py,
    h.cur, h.warn, h.nonempty, h.lt_height⟩

end AtRow

/-! ### A pixel of the stream -/

/-- At depth 8 a sample is a byte (41_bit_depth_unpacker.md R140, R143). -/
theorem channelSample_of_byte {s : State} {x c : Nat} {b : Byte} (hdepth : s.depth = 8)
    (h : memRead s.input (s.cur + 1 + (x * samplesPerPixel s.ctype + c)) = some b) : channelSample s x c = .ok b := by
  have hdepth' : s.depth.toNat = 8 := by rw [hdepth]; rfl
  have haddr : ∀ i, sampleAddr (s.cur + 1) 8 i = s.cur + 1 + i := fun i => by simp [sampleAddr, samplesPerByte]
  have hbyte : ∀ i, sampleOfByte b 8 i = b := fun i => by
    apply BitVec.eq_of_toNat_eq
    have hshift : sampleShift 8 i = 0 := by simp [sampleShift, samplesPerByte, Nat.mod_one]
    rw [toNat_sampleOfByte b i le_rfl, hshift, Nat.pow_zero, Nat.div_one, Nat.mod_eq_of_lt b.isLt]
  rw [← haddr] at h
  have hsample := extractSample_of_byte h
  rw [hbyte, ← hdepth'] at hsample
  rw [channelSample_of_ok hsample, hdepth', widenSample_eight]

/-- A pixel of depth 8, RGBA, is its four bytes in stream order (20_memory.md R66, 41_bit_depth_unpacker.md R142). -/
theorem composePixel_of_streamBytes {s : State} {x : Nat} {d : Pixel} (hdepth : s.depth = 8) (hctype : s.ctype = 6)
    (h : ∀ c < 4, memRead s.input (s.cur + 1 + (4 * x + c)) = some (lane d c)) : composePixel s x = .ok d := by
  have hspp : samplesPerPixel s.ctype = 4 := by rw [hctype]; rfl
  have hword : composeWord s.ctype (lane d) = d := by rw [hctype]; exact pack_lanes d
  have hchannel : ∀ c < samplesPerPixel s.ctype, channelSample s x c = .ok (lane d c) := fun c hc => by
    refine channelSample_of_byte hdepth ?_
    rw [hspp] at hc ⊢
    rw [Nat.mul_comm x, h c hc]
  rw [composePixel_eq_composeWord (by rw [hctype]; rfl) hchannel, hword]

/-- A neighbour is missing or there where FB holds a value at each neighbour that is present (42_scanline_reconstructor.md
R162). -/
theorem exists_neighbour {s : State} {present : Bool} {x y : Nat} (h : present = true → (memRead s.fb (lin s x y)).isSome) :
    ∃ p, neighbour s present x y = .ok p := by
  cases present
  · exact ⟨0, rfl⟩
  · obtain ⟨p, hp⟩ := Option.isSome_iff_exists.1 (h rfl)
    exact ⟨p, readFb_eq_ok.2 hp⟩

section SubPixel

variable {s v : State} {x y : Nat} (h : AtRow s v y)
include h

/-- The raw pixel word of a pixel of the stream is the filtered source pixel (44_commands.md R226). -/
theorem AtRow.composePixel {d : Pixel}
    (hbytes : ∀ c < 4, memRead v.input (y * (1 + 4 * s.width.toNat) + 1 + 4 * x + c) = some (lane d c)) :
    composePixel v x = .ok d :=
  composePixel_of_streamBytes h.depth h.ctype fun c hc => by rw [h.cur, ← Nat.add_assoc, hbytes c hc]

variable (hx : x < s.width.toNat) (hfb : Restored s v (y * s.width.toNat + x))
include hfb

/-- The left neighbour is the source pixel that the encoder subtracted (44_commands.md R227). -/
theorem AtRow.neighbour_left {l : Pixel}
    (hl : if x = 0 then l = 0 else memRead s.fb (y * s.width.toNat + x - 1) = some l) :
    neighbour v (0 < x) (x - 1) y = .ok l := by
  rcases Nat.eq_zero_or_pos x with rfl | hpos
  · rw [if_pos rfl] at hl
    rw [hl]
    rfl
  · have hleft : y * s.width.toNat + x - 1 = y * s.width.toNat + (x - 1) := by omega
    rw [if_neg hpos.ne', hleft] at hl
    rw [Machine.neighbour, if_pos (decide_eq_true hpos), readFb_eq_ok, h.lin, hfb _ (by omega), hl]

include hx

/-- The row above is there, so the neighbours that Sub does not use do not stop it (42_scanline_reconstructor.md R162). -/
theorem AtRow.exists_neighbour_above {present : Bool} {z : Nat} (hz : z < s.width.toNat)
    (hpresent : present = true → 0 < y) : ∃ p, neighbour v present z (y - 1) = .ok p := by
  refine exists_neighbour fun hp => ?_
  have habove : (y - 1) * s.width.toNat + s.width.toNat = y * s.width.toNat := by
    rw [← Nat.add_one_mul, Nat.sub_add_cancel (hpresent hp)]
  have hlt : (y - 1) * s.width.toNat + z < y * s.width.toNat + x := by omega
  rw [h.lin, hfb _ hlt]
  exact h.stream.frameWritten _ (hlt.trans (linAddr_lt hx h.lt_height))

/-- A Sub pixel step gives the source pixel back where the pixels before it are back: what the encoder subtracted is what the
decoder adds (44_commands.md R227, 40_pixel_arithmetic.md R125). -/
theorem AtRow.pixelStep (hpx : v.px.toNat = x) :
    ∃ l p, memRead s.fb (y * s.width.toNat + x) = some p ∧
      pixelStep .sub v = .go { v with latches := l, fb := memWrite (y * s.width.toNat + x) p v.fb } := by
  obtain ⟨-, hpixels⟩ := h.stream y h.lt_height
  obtain ⟨p, l, hp, hl, hbytes⟩ := hpixels x hx
  obtain ⟨b, hb⟩ := h.exists_neighbour_above hx hfb (present := 0 < y) hx of_decide_eq_true
  obtain ⟨c, hc⟩ := h.exists_neighbour_above hx hfb (present := 0 < x && 0 < y) (Nat.sub_lt_of_lt hx) fun hxy =>
    of_decide_eq_true (Bool.and_elim_right hxy)
  have hlatches := loadLatches_of_ok (h.composePixel hbytes) (h.neighbour_left hfb hl) hb hc
  rw [← hpx, ← h.py] at hlatches
  have hlin : Machine.lin v v.px.toNat v.py.toNat = y * s.width.toNat + x := by rw [hpx, h.py, h.lin]
  have hindexed : ctIndexed v.ctype = false := by rw [h.ctype]; rfl
  have hfits : fits v.params.fbCapacity (Machine.lin v v.px.toNat v.py.toNat + 1) = true := by
    rw [hlin]
    exact fits_of_le (linAddr_lt hx h.lt_height) h.capacity
  have hpixel : forceAlpha v.ctype (pauAdd (pauSub p l) l) = p := by
    rw [h.ctype, (addAndSubAreInverse p l).1]
    rfl
  have hstep := pixelStep_of_latches .sub hindexed hlatches hfits
  simp only [reconstruct, predict, hpixel, hlin] at hstep
  exact ⟨_, p, hp, hstep⟩

end SubPixel

theorem AtRow.pixelLoop {s v : State} {n x y : Nat} (h : AtRow s v y) (hn : x + n = s.width.toNat)
    (hfb : Restored s v (y * s.width.toNat + x)) :
    ∃ t, pixelLoop .sub n x v = .go t ∧ Restored s t ((y + 1) * s.width.toNat) := by
  induction n generalizing x v with
  | zero =>
    obtain rfl : x = s.width.toNat := hn
    exact ⟨v, rfl, by rwa [Nat.add_one_mul]⟩
  | succ n ih =>
    have hpx : (BitVec.ofNat 32 x).toNat = x := by
      have := s.width.isLt
      rw [BitVec.toNat_ofNat, Nat.mod_eq_of_lt (by omega)]
    have hat : AtRow s { v with px := BitVec.ofNat 32 x } y := h.midRecord _ _ _ _
    obtain ⟨l, p, hp, hstep⟩ := hat.pixelStep (by omega) hfb hpx
    obtain ⟨t, ht, hrestored⟩ := ih (hat.midRecord l _ _ (memWrite (y * s.width.toNat + x) p v.fb))
      (x := x + 1) (by omega) fun a ha => by
        rw [memRead_memWrite]
        split
        case isTrue heq => rw [heq, hp]
        case isFalse hne => exact hfb a (by omega)
    exact ⟨t, flowThen_eq_go.2 ⟨_, hstep, ht⟩, hrestored⟩

/-! ### A record of the stream, and the whole of it -/

/-- The record step of row `y` gives the row back. -/
theorem AtRow.recordStep {s v : State} {y : Nat} (h : AtRow s v y) (hfb : Restored s v (y * s.width.toNat)) :
    ∃ t, recordStep .sub v = .next t ∧
      t = { v with latches := t.latches, px := t.px, ft := t.ft, cur := (y + 1) * (1 + 4 * s.width.toNat), fb := t.fb
                   seed := t.seed } ∧
      Restored s t ((y + 1) * s.width.toNat) := by
  have hindexed : ctIndexed v.ctype = false := by rw [h.ctype]; rfl
  have hstart : recordStart .sub v = { v with px := 0, ft := filterCode .sub } := by simp [recordStart, hindexed]
  have hat : AtRow s { v with px := 0, ft := filterCode .sub } y := h.midRecord _ _ _ _
  obtain ⟨t, hloop, hrestored⟩ := hat.pixelLoop (n := v.pw.toNat) (x := 0) (by rw [h.pw, Nat.zero_add]) hfb
  rw [← hstart] at hloop
  have hpw : 1 ≤ s.width.toNat := h.nonempty
  have hready : recordReady v = true := by
    simp [recordReady, h.depth, h.ctype, h.pw, h.ph, h.py, hpw, h.lt_height, legalDepth, legalCtype]
  have hcur : v.cur + 1 + 4 * s.width.toNat = (y + 1) * (1 + 4 * s.width.toNat) := by
    rw [h.cur, Nat.add_assoc, ← Nat.add_one_mul]
  refine ⟨endRecord (4 * s.width.toNat) t, ?_, ?_, hrestored⟩
  · rw [recordStep_of_row hready (by rw [h.rowBytes]; exact h.row_le), h.rowBytes, hloop]
    rfl
  · obtain ⟨heq, -⟩ := recordLoop_frame hloop le_rfl
    rw [heq, hstart, ← hcur]
    rfl

/-- The record of row `y` is one of filter type Sub, after which the sequencer moves on. -/
theorem AtRow.stepRecord {s v : State} {y : Nat} (h : AtRow s v y) (hfb : Restored s v (y * s.width.toNat)) :
    ∃ t, step v = .next (nextRecord t) ∧
      t = { v with latches := t.latches, px := t.px, ft := t.ft, cur := (y + 1) * (1 + 4 * s.width.toNat), fb := t.fb
                   seed := t.seed } ∧
      Restored s t ((y + 1) * s.width.toNat) := by
  obtain ⟨hone, -⟩ := h.stream y h.lt_height
  have hat : AtRow s { v with px := 0, ft := filterCode .sub } y := h.midRecord _ _ _ _
  obtain ⟨t, hrecord, heq, hrestored⟩ := hat.recordStep hfb
  have hrun : t.run = .run := by rw [heq]; exact h.run
  have hleft : v.cur < v.inLen := by have := h.row_le; omega
  refine ⟨t, ?_, heq, hrestored⟩
  rw [step_of_run h.reset h.run, stepRecord_of_filterCode (f := .sub) hleft (by rw [h.cur]; exact hone), hrecord]
  exact afterRecord_of_run hrun

/-- Before the last row the sequencer moves to the next row of the single pass (43_interlace_sequencer.md R207). -/
theorem AtRow.nextRow {s v : State} {y : Nat} (h : AtRow s v y) (hfb : Restored s v (y * s.width.toNat))
    (hlt : y + 1 < s.height.toNat) :
    ∃ u, step v = .next u ∧ AtRow s u (y + 1) ∧ Restored s u ((y + 1) * s.width.toNat) := by
  obtain ⟨t, ht, heq, hrestored⟩ := h.stepRecord hfb
  have hpy : t.py.toNat = y := by rw [heq]; exact h.py
  have hph : t.ph = s.height := by rw [heq]; exact h.ph
  have hrow : t.py.toNat + 1 < t.ph.toNat := by rwa [hpy, hph]
  have hpy' : (t.py + 1).toNat = y + 1 := by
    rw [← hpy]
    exact BitVec.toNat_add_of_lt (y := 1) (hrow.trans t.ph.isLt)
  refine ⟨_, ht.trans (congrArg _ (nextRecord_of_row hrow)), ?_, hrestored⟩
  rw [heq] at hpy' ⊢
  exact ⟨⟨h.reset, h.width, h.height, h.depth, h.ctype, h.ilace, h.capacity, h.inLen, h.stream⟩, h.run, h.pass, h.pw, h.ph,
    hpy', rfl, h.warn, h.nonempty, hlt⟩

/-- After the last row the decode is complete: no pass follows the single one (43_interlace_sequencer.md R207). -/
theorem AtRow.lastRow {s v : State} {y : Nat} (h : AtRow s v y) (hfb : Restored s v (y * s.width.toNat))
    (hlast : y + 1 = s.height.toNat) :
    ∃ w, step v = .next w ∧ w.run = .done ∧ w.cur = s.height.toNat * (1 + 4 * s.width.toNat) ∧ w.warn = 0 ∧
      Restored s w (area s) := by
  obtain ⟨t, ht, heq, hrestored⟩ := h.stepRecord hfb
  have hrow : t.py.toNat + 1 = t.ph.toNat := by rw [heq, h.ph, h.py, hlast]
  have hnone : passesAfter t.ilace t.pass.toNat = [] := by
    rw [heq, h.ilace, h.pass]
    rfl
  have hend : nextRecord t = finish t := by rw [nextRecord_of_last_row hrow, hnone, enterPass]
  refine ⟨_, ht.trans (congrArg _ hend), rfl, ?_, ?_, ?_⟩
  · rw [finish_cur, heq, hlast]
  · rw [finish_warn, heq, h.warn]
  · rw [area, Nat.mul_comm, ← hlast]
    exact hrestored

/-- From row `y` on, one step for each row to come, the last of which completes the decode. -/
theorem AtRow.completes {s v : State} {n y : Nat} (h : AtRow s v y) (hfb : Restored s v (y * s.width.toNat))
    (hn : y + (n + 1) = s.height.toNat) :
    ∃ w, stepN (n + 1) v = .next w ∧ w.run = .done ∧ w.cur = s.height.toNat * (1 + 4 * s.width.toNat) ∧ w.warn = 0 ∧
      Restored s w (area s) := by
  induction n generalizing y v with
  | zero =>
    obtain ⟨w, hw, hend⟩ := h.lastRow hfb hn
    exact ⟨w, stepN_succ_of_next hw 0, hend⟩
  | succ n ih =>
    obtain ⟨u, hu, hrow, hrestored⟩ := h.nextRow hfb (by omega)
    obtain ⟨w, hw, hend⟩ := ih hrow hrestored (by omega)
    exact ⟨w, (stepN_succ_of_next hu _).trans hw, hend⟩

/-! ### The call -/

/-- C.ENCSUB that ends in DONE has found the image not empty and has written its stream (44_commands.md R226). -/
theorem execCEncsub_done {s t : State} (h : execCEncsub s = .next t) (hdone : t.run = .done) :
    s.width ≠ 0 ∧ s.height ≠ 0 ∧ t.outLen = s.height.toNat * (1 + 4 * s.width.toNat) ∧ HoldsStream s t.out := by
  obtain ⟨hidle, hend⟩ := execCEncsub_next h
  have hnonempty : ¬ (s.width = 0 ∨ s.height = 0) := fun hzero => by
    have ht := Host.Outcome.next.inj (h.symm.trans (execCEncsub_of_zeroArea hidle hzero))
    rw [ht, takeFault_run] at hdone
    cases hdone
  obtain ⟨hw, hh⟩ := not_or.1 hnonempty
  rcases hend with ⟨e, rfl⟩ | ⟨bytes, hbytes, rfl⟩
  · rw [takeFault_run] at hdone
    cases hdone
  · obtain ⟨hlen, -⟩ := encodeRows_ok hbytes
    exact ⟨hw, hh, hlen, holdsStream_of_encodeRows hbytes s.out⟩

/-- A stream reads the same from two memories that agree on its bytes. -/
theorem HoldsStream.congr {s : State} {m m' : Cells 8} (h : HoldsStream s m)
    (hm : ∀ a < s.height.toNat * (1 + 4 * s.width.toNat), memRead m' a = memRead m a) : HoldsStream s m' := by
  intro y hy
  have hrow : (y + 1) * (1 + 4 * s.width.toNat) ≤ s.height.toNat * (1 + 4 * s.width.toNat) := Nat.mul_le_mul_right _ hy
  rw [Nat.add_one_mul] at hrow
  obtain ⟨hone, hpixels⟩ := h y hy
  refine ⟨by rw [hm _ (by omega), hone], fun x hx => ?_⟩
  obtain ⟨p, l, hp, hl, hbytes⟩ := hpixels x hx
  exact ⟨p, l, hp, hl, fun c hc => by rw [hm _ (by omega), hbytes c hc]⟩

/-- C.DECODE of the call starts at row 0 (44_commands.md R222). -/
theorem ReadsBack.start {s u : State} (h : ReadsBack s u) (hidle : u.run = .idle) (hw : s.width ≠ 0) (hh : s.height ≠ 0) :
    ∃ v, execCDecode u = .next v ∧ AtRow s v 0 := by
  have hpos : ∀ {x : BitVec 32}, x ≠ 0 → 0 < x.toNat := fun hx => Nat.pos_of_ne_zero fun h0 => hx (BitVec.eq_of_toNat_eq h0)
  have hlegal : legalDepth u.depth ∧ legalCtype u.ctype ∧ legalIlace u.ilace := by
    rw [h.depth, h.ctype, h.ilace]
    decide
  have hcap : fits u.params.fbCapacity (area u) = true := by
    rw [area, h.width, h.height]
    exact h.capacity
  have hw' : u.width ≠ 0 := h.width ▸ hw
  have hh' : u.height ≠ 0 := h.height ▸ hh
  have hcheck : startCheck u = none :=
    startCheck_of_pass (not_or.2 ⟨hw', hh'⟩) hlegal.1 hlegal.2.1 hlegal.2.2 hcap (by simp [h.ilace])
  have hpasses : allPasses u.ilace = [0] := if_pos h.ilace
  refine ⟨_, execCDecode_of_pass hidle hcheck, ?_⟩
  rw [hpasses, enterPass_single (s := zeroFill (beginDecode u)) hw' hh']
  exact ⟨⟨h.reset, h.width, h.height, h.depth, h.ctype, h.ilace, h.capacity, h.inLen, h.stream⟩, rfl, rfl, h.width, h.height,
    rfl, (Nat.zero_mul _).symm, rfl, hpos hw, hpos hh⟩

/-- Settles O56: C.ENCSUB leaves a stream whose decode starts at row 0 and takes one record for each row. -/
theorem encodeThenDecodeGivesImageBack : Obligations.EncodeThenDecodeGivesImageBack := by
  unfold Obligations.EncodeThenDecodeGivesImageBack
  intro s t u _ hexec hdone hidle hreset hwidth hheight hdepth hctype hilace hcap hinLen hinput
  obtain ⟨hw, hh, houtLen, hstream⟩ := execCEncsub_done hexec hdone
  rw [houtLen] at hinLen hinput ⊢
  have hreads : ReadsBack s u :=
    ⟨hreset, hwidth, hheight, hdepth, hctype, hilace, hcap, hinLen, hstream.congr hinput⟩
  obtain ⟨v, hv, hrow⟩ := hreads.start hidle hw hh
  obtain ⟨n, hn⟩ := Nat.exists_eq_add_of_le' hrow.lt_height
  obtain ⟨w, hsteps, hend⟩ := hrow.completes (n := n) (fun a ha => absurd ha (by simp)) (by omega)
  exact ⟨v, w, hv, by rw [hn]; exact hsteps, hend⟩

end Sys2Proof.Machine
end

section
/-! PROOFS. The fault of an illegal filter-type byte (60_exceptions.md R249). -/

namespace Sys2Proof.Machine

/-- Settles O31: the fetch decodes the byte before anything else is looked at, so the step is the entry of `E_FILTER`. -/
theorem illegalFilterTypeFaults : Obligations.IllegalFilterTypeFaults := by
  unfold Obligations.IllegalFilterTypeFaults
  intro s b hreset hrun hcur hb hillegal
  refine ⟨takeFault .decode .filter (b.setWidth 32) { s with px := 0, ft := b }, ?_, ?_, ?_, fun a ha => ?_⟩
  · rw [step_of_run hreset hrun, stepRecord, fetch_of_reserved hcur hb hillegal]
  · rw [takeFault_errInfo, BitVec.toNat_setWidth_of_le (by decide)]
  · exact takeFault_eq _ _ _ _
  · exact takeFault_decode_fb_above _ _ _ ha

end Sys2Proof.Machine
end

section
/-! PROOFS. The reset event (70_reset_and_hazards.md R280). -/

namespace Sys2Proof.Machine

/-- The reset input comes before the look at STATE, so RUN and FAULT take it as IDLE does. -/
theorem step_of_reset_due {s : State} (h : s.resetIn = some 0) : step s = .next (applyReset s) := by
  rw [step, h]

/-- Settles O8: the step is the reset event, whose fields do not depend on STATE. -/
theorem resetTakenInAnyState : Obligations.ResetTakenInAnyState := by
  unfold Obligations.ResetTakenInAnyState
  intro s hdue
  exact ⟨applyReset s, step_of_reset_due hdue, by simp⟩

end Sys2Proof.Machine
end
